-- ==== Sys2Proof/Word.lean ====
section
/-! DEFINITION. The word types of the machine (10_state.md R20 to R26, 30_encoding.md R71). -/

namespace Sys2Proof

/-- One byte: a memory cell, a `V` register, a timer (R20, R28, R50). -/
abbrev Byte := BitVec 8

/-- Sixteen bits: an instruction word, `PC`, `I`, a stack slot, `OPC` (R22, R23, R26, R31). -/
abbrev Word := BitVec 16

/-- The 12-bit `nnn` field (R71). -/
abbrev Addr := BitVec 12

/-- The 4-bit `n` field: the sprite height of DXYN (R71). -/
abbrev Nibble := BitVec 4

/-- The number of a general register, 0 to 15 (R20); `x` and `y` fields name all 16 (R76). -/
abbrev RegIx := Fin 16

/-- The number of a key, 0x0 to 0xF (R29). -/
abbrev KeyIx := Fin 16

end Sys2Proof
end

