-- ==== Sys2Proof/Syntax.lean ====
section
/-! DEFINITION. The 35 instructions, one constructor per row of 30_encoding.md R75 (spec/opcode_table.json). -/

namespace Sys2Proof

/-- An instruction. A constructor is named after its row's pattern ("The mnemonic is the pattern
itself", R75) and takes the row's fields in the order they stand in the word. -/
inductive Instr where
  /-- Clear the display (R160). -/
  | op00E0
  /-- Return from subroutine (R101). -/
  | op00EE
  /-- Legacy machine-code call, a no-op (R100). -/
  | op0NNN (nnn : Addr)
  /-- Jump (R102). -/
  | op1NNN (nnn : Addr)
  /-- Call subroutine (R103). -/
  | op2NNN (nnn : Addr)
  /-- Skip if `V[x] = nn` (R104). -/
  | op3XNN (x : RegIx) (nn : Byte)
  /-- Skip if `V[x] != nn` (R105). -/
  | op4XNN (x : RegIx) (nn : Byte)
  /-- Skip if `V[x] = V[y]` (R106). -/
  | op5XY0 (x y : RegIx)
  /-- Load immediate (R120). -/
  | op6XNN (x : RegIx) (nn : Byte)
  /-- Add immediate, no flag (R121). -/
  | op7XNN (x : RegIx) (nn : Byte)
  /-- Move (R122). -/
  | op8XY0 (x y : RegIx)
  /-- Bitwise OR (R123). -/
  | op8XY1 (x y : RegIx)
  /-- Bitwise AND (R124). -/
  | op8XY2 (x y : RegIx)
  /-- Bitwise XOR (R125). -/
  | op8XY3 (x y : RegIx)
  /-- Add with carry out (R126). -/
  | op8XY4 (x y : RegIx)
  /-- Subtract `V[y]` from `V[x]` (R127). -/
  | op8XY5 (x y : RegIx)
  /-- Shift `V[x]` right; `y` is decoded and ignored (R128). -/
  | op8XY6 (x y : RegIx)
  /-- Reverse subtract (R129). -/
  | op8XY7 (x y : RegIx)
  /-- Shift `V[x]` left; `y` is decoded and ignored (R130). -/
  | op8XYE (x y : RegIx)
  /-- Skip if `V[x] != V[y]` (R107). -/
  | op9XY0 (x y : RegIx)
  /-- Load index (R140). -/
  | opANNN (nnn : Addr)
  /-- Jump with offset `V[0]` (R108). -/
  | opBNNN (nnn : Addr)
  /-- Random AND immediate (R131). -/
  | opCXNN (x : RegIx) (nn : Byte)
  /-- Draw sprite (R162). -/
  | opDXYN (x y : RegIx) (n : Nibble)
  /-- Skip if key pressed (R180). -/
  | opEX9E (x : RegIx)
  /-- Skip if key not pressed (R181). -/
  | opEXA1 (x : RegIx)
  /-- Read delay timer (R183). -/
  | opFX07 (x : RegIx)
  /-- Wait for key (R182). -/
  | opFX0A (x : RegIx)
  /-- Set delay timer (R184). -/
  | opFX15 (x : RegIx)
  /-- Set sound timer (R185). -/
  | opFX18 (x : RegIx)
  /-- Add register to index (R141). -/
  | opFX1E (x : RegIx)
  /-- Point index at font glyph (R142). -/
  | opFX29 (x : RegIx)
  /-- Store binary-coded decimal (R143). -/
  | opFX33 (x : RegIx)
  /-- Store registers V0 to VX (R144). -/
  | opFX55 (x : RegIx)
  /-- Load registers V0 to VX (R145). -/
  | opFX65 (x : RegIx)
  deriving DecidableEq, Repr

/-- The diagnostic mnemonic: the pattern string of the row (R75, R38). -/
def Instr.mnemonic : Instr → String
  | .op00E0 => "00E0" | .op00EE => "00EE" | .op0NNN _ => "0NNN"
  | .op1NNN _ => "1NNN" | .op2NNN _ => "2NNN"
  | .op3XNN _ _ => "3XNN" | .op4XNN _ _ => "4XNN" | .op5XY0 _ _ => "5XY0"
  | .op6XNN _ _ => "6XNN" | .op7XNN _ _ => "7XNN"
  | .op8XY0 _ _ => "8XY0" | .op8XY1 _ _ => "8XY1" | .op8XY2 _ _ => "8XY2"
  | .op8XY3 _ _ => "8XY3" | .op8XY4 _ _ => "8XY4" | .op8XY5 _ _ => "8XY5"
  | .op8XY6 _ _ => "8XY6" | .op8XY7 _ _ => "8XY7" | .op8XYE _ _ => "8XYE"
  | .op9XY0 _ _ => "9XY0" | .opANNN _ => "ANNN" | .opBNNN _ => "BNNN"
  | .opCXNN _ _ => "CXNN" | .opDXYN _ _ _ => "DXYN"
  | .opEX9E _ => "EX9E" | .opEXA1 _ => "EXA1"
  | .opFX07 _ => "FX07" | .opFX0A _ => "FX0A" | .opFX15 _ => "FX15"
  | .opFX18 _ => "FX18" | .opFX1E _ => "FX1E" | .opFX29 _ => "FX29"
  | .opFX33 _ => "FX33" | .opFX55 _ => "FX55" | .opFX65 _ => "FX65"

end Sys2Proof
end

