-- ==== Sys2Proof/WellFormed.lean ====
section
/-! DEFINITION. Which terms of `Instr` are instructions: the field types bound every operand, so the one check left is that
0NNN excludes the words of 00E0 and 00EE (30_encoding.md R74, R75). -/

namespace Sys2Proof

/-- Row 0NNN is "every word 0x0000 to 0x0FFF except 0x00E0 and 0x00EE" (R100); every other row takes
all values of its fields (R76). -/
def Instr.wellFormed : Instr → Bool
  | .op0NNN nnn => nnn != 0x0E0#12 && nnn != 0x0EE#12
  | .op00E0 | .op00EE => true
  | .op1NNN _ | .op2NNN _ | .opANNN _ | .opBNNN _ => true
  | .op3XNN _ _ | .op4XNN _ _ | .op6XNN _ _ | .op7XNN _ _ | .opCXNN _ _ => true
  | .op5XY0 _ _ | .op9XY0 _ _ => true
  | .op8XY0 _ _ | .op8XY1 _ _ | .op8XY2 _ _ | .op8XY3 _ _ | .op8XY4 _ _ => true
  | .op8XY5 _ _ | .op8XY6 _ _ | .op8XY7 _ _ | .op8XYE _ _ => true
  | .opDXYN _ _ _ => true
  | .opEX9E _ | .opEXA1 _ => true
  | .opFX07 _ | .opFX0A _ | .opFX15 _ | .opFX18 _ | .opFX1E _ | .opFX29 _ => true
  | .opFX33 _ | .opFX55 _ | .opFX65 _ => true

end Sys2Proof
end

