-- ==== Sys2Proof/Decode.lean ====
section
/-! DEFINITION. The decoder (30_encoding.md R74), total on any bytes and rejecting by name, then the encoder and the opcode
map (R71, R72, R75). -/

namespace Sys2Proof

/-- Why bytes are no instruction. -/
inductive Reject where
  /-- Fewer than the two bytes of an instruction (R70). -/
  | truncated
  /-- The word matches no row of the opcode map (R77). -/
  | unrecognized (op : Word)
  deriving DecidableEq, Repr

/-- Big-endian: the high byte stands at the lower address (R55). -/
def wordOfBytes (hi lo : Byte) : Word := hi ++ lo

/-- The byte at the lower address (R55). -/
def highByte (op : Word) : Byte := op.extractLsb' 8 8

/-- The byte at the higher address (R55). -/
def lowByte (op : Word) : Byte := op.extractLsb' 0 8

/-- `t = op[15:12]` (R71). -/
def fieldT (op : Word) : Nibble := op.extractLsb' 12 4

/-- `x = op[11:8]` (R71). -/
def fieldX (op : Word) : RegIx := (op.extractLsb' 8 4).toFin

/-- `y = op[7:4]` (R71). -/
def fieldY (op : Word) : RegIx := (op.extractLsb' 4 4).toFin

/-- `n = op[3:0]` (R71). -/
def fieldN (op : Word) : Nibble := op.extractLsb' 0 4

/-- `nn = op[7:0]` (R71). -/
def fieldNN (op : Word) : Byte := op.extractLsb' 0 8

/-- `nnn = op[11:0]` (R71). -/
def fieldNNN (op : Word) : Addr := op.extractLsb' 0 12

/-- Family 0x0 is told apart on the whole word (R74). -/
def decode0 (op : Word) : Except Reject Instr :=
  if op = 0x00E0#16 then .ok .op00E0
  else if op = 0x00EE#16 then .ok .op00EE
  else .ok (.op0NNN (fieldNNN op))

/-- Family 0x8 is dispatched by `n` (R74). -/
def decode8 (op : Word) : Except Reject Instr :=
  match (fieldN op).toNat with
  | 0x0 => .ok (.op8XY0 (fieldX op) (fieldY op))
  | 0x1 => .ok (.op8XY1 (fieldX op) (fieldY op))
  | 0x2 => .ok (.op8XY2 (fieldX op) (fieldY op))
  | 0x3 => .ok (.op8XY3 (fieldX op) (fieldY op))
  | 0x4 => .ok (.op8XY4 (fieldX op) (fieldY op))
  | 0x5 => .ok (.op8XY5 (fieldX op) (fieldY op))
  | 0x6 => .ok (.op8XY6 (fieldX op) (fieldY op))
  | 0x7 => .ok (.op8XY7 (fieldX op) (fieldY op))
  | 0xE => .ok (.op8XYE (fieldX op) (fieldY op))
  | _ => .error (.unrecognized op)

/-- Family 0xE is dispatched by `nn` (R74). -/
def decodeE (op : Word) : Except Reject Instr :=
  match (fieldNN op).toNat with
  | 0x9E => .ok (.opEX9E (fieldX op))
  | 0xA1 => .ok (.opEXA1 (fieldX op))
  | _ => .error (.unrecognized op)

/-- Family 0xF is dispatched by `nn` (R74). -/
def decodeF (op : Word) : Except Reject Instr :=
  match (fieldNN op).toNat with
  | 0x07 => .ok (.opFX07 (fieldX op))
  | 0x0A => .ok (.opFX0A (fieldX op))
  | 0x15 => .ok (.opFX15 (fieldX op))
  | 0x18 => .ok (.opFX18 (fieldX op))
  | 0x1E => .ok (.opFX1E (fieldX op))
  | 0x29 => .ok (.opFX29 (fieldX op))
  | 0x33 => .ok (.opFX33 (fieldX op))
  | 0x55 => .ok (.opFX55 (fieldX op))
  | 0x65 => .ok (.opFX65 (fieldX op))
  | _ => .error (.unrecognized op)

/-- `Decode(op)` (R74): dispatch by the top nibble, then within the families 0x0, 0x5, 0x8, 0x9, 0xE,
0xF (log 20). -/
def decodeWord (op : Word) : Except Reject Instr :=
  match (fieldT op).toNat with
  | 0x0 => decode0 op
  | 0x1 => .ok (.op1NNN (fieldNNN op))
  | 0x2 => .ok (.op2NNN (fieldNNN op))
  | 0x3 => .ok (.op3XNN (fieldX op) (fieldNN op))
  | 0x4 => .ok (.op4XNN (fieldX op) (fieldNN op))
  | 0x5 => if fieldN op = 0 then .ok (.op5XY0 (fieldX op) (fieldY op)) else .error (.unrecognized op)
  | 0x6 => .ok (.op6XNN (fieldX op) (fieldNN op))
  | 0x7 => .ok (.op7XNN (fieldX op) (fieldNN op))
  | 0x8 => decode8 op
  | 0x9 => if fieldN op = 0 then .ok (.op9XY0 (fieldX op) (fieldY op)) else .error (.unrecognized op)
  | 0xA => .ok (.opANNN (fieldNNN op))
  | 0xB => .ok (.opBNNN (fieldNNN op))
  | 0xC => .ok (.opCXNN (fieldX op) (fieldNN op))
  | 0xD => .ok (.opDXYN (fieldX op) (fieldY op) (fieldN op))
  | 0xE => decodeE op
  | _ => decodeF op

/-- The decoder on bytes: the instruction and the bytes after it (R55, R70). -/
def decodeBytes : List Byte → Except Reject (Instr × List Byte)
  | hi :: lo :: rest => (decodeWord (wordOfBytes hi lo)).map (fun i => (i, rest))
  | _ => .error .truncated

/-- The 16-bit instruction whose bits, numbered as spec/opcode_table.json numbers them, are `w`; bits
above `nbits` are 0. -/
def tableWord (nbits w : Nat) : Word := BitVec.ofNat 16 (w % 2 ^ nbits)

/-- What the decoder reads from the bytes of a table word laid out high byte first. -/
def decodeTableWord (nbits w : Nat) : Option Instr :=
  match decodeBytes [highByte (tableWord nbits w), lowByte (tableWord nbits w)] with
  | .ok (i, _) => some i
  | .error _ => none

/-! The encoder, from the formats of R72. -/

/-- Format ADDR: `t ++ nnn`. -/
def encodeAddr (t : Nibble) (nnn : Addr) : Word := t ++ nnn

/-- Formats XNN and XSUB: `t ++ x ++ nn`. -/
def encodeXnn (t : Nibble) (x : RegIx) (nn : Byte) : Word := t ++ ((BitVec.ofFin x : Nibble) ++ nn)

/-- Format XYN: `t ++ x ++ y ++ n`. -/
def encodeXyn (t : Nibble) (x y : RegIx) (n : Nibble) : Word :=
  t ++ ((BitVec.ofFin x : Nibble) ++ ((BitVec.ofFin y : Nibble) ++ n))

/-- The word of an instruction (R72, R75). -/
def encode : Instr → Word
  | .op00E0 => 0x00E0#16
  | .op00EE => 0x00EE#16
  | .op0NNN nnn => encodeAddr 0x0#4 nnn
  | .op1NNN nnn => encodeAddr 0x1#4 nnn
  | .op2NNN nnn => encodeAddr 0x2#4 nnn
  | .op3XNN x nn => encodeXnn 0x3#4 x nn
  | .op4XNN x nn => encodeXnn 0x4#4 x nn
  | .op5XY0 x y => encodeXyn 0x5#4 x y 0x0#4
  | .op6XNN x nn => encodeXnn 0x6#4 x nn
  | .op7XNN x nn => encodeXnn 0x7#4 x nn
  | .op8XY0 x y => encodeXyn 0x8#4 x y 0x0#4
  | .op8XY1 x y => encodeXyn 0x8#4 x y 0x1#4
  | .op8XY2 x y => encodeXyn 0x8#4 x y 0x2#4
  | .op8XY3 x y => encodeXyn 0x8#4 x y 0x3#4
  | .op8XY4 x y => encodeXyn 0x8#4 x y 0x4#4
  | .op8XY5 x y => encodeXyn 0x8#4 x y 0x5#4
  | .op8XY6 x y => encodeXyn 0x8#4 x y 0x6#4
  | .op8XY7 x y => encodeXyn 0x8#4 x y 0x7#4
  | .op8XYE x y => encodeXyn 0x8#4 x y 0xE#4
  | .op9XY0 x y => encodeXyn 0x9#4 x y 0x0#4
  | .opANNN nnn => encodeAddr 0xA#4 nnn
  | .opBNNN nnn => encodeAddr 0xB#4 nnn
  | .opCXNN x nn => encodeXnn 0xC#4 x nn
  | .opDXYN x y n => encodeXyn 0xD#4 x y n
  | .opEX9E x => encodeXnn 0xE#4 x 0x9E#8
  | .opEXA1 x => encodeXnn 0xE#4 x 0xA1#8
  | .opFX07 x => encodeXnn 0xF#4 x 0x07#8
  | .opFX0A x => encodeXnn 0xF#4 x 0x0A#8
  | .opFX15 x => encodeXnn 0xF#4 x 0x15#8
  | .opFX18 x => encodeXnn 0xF#4 x 0x18#8
  | .opFX1E x => encodeXnn 0xF#4 x 0x1E#8
  | .opFX29 x => encodeXnn 0xF#4 x 0x29#8
  | .opFX33 x => encodeXnn 0xF#4 x 0x33#8
  | .opFX55 x => encodeXnn 0xF#4 x 0x55#8
  | .opFX65 x => encodeXnn 0xF#4 x 0x65#8

/-- The bytes of an instruction, lowest address first (R55). -/
def encodeBytes (i : Instr) : List Byte := [highByte (encode i), lowByte (encode i)]

/-! The opcode map as the table of R75. -/

/-- A row of the opcode map: "the word `op` selects the row when `op AND mask = match`" (R75). -/
structure OpcodeRow where
  mnemonic : String
  mask : Word
  pattern : Word
  deriving DecidableEq, Repr

/-- Whether a word selects a row (R75). -/
def OpcodeRow.selects (r : OpcodeRow) (op : Word) : Bool := op &&& r.mask == r.pattern

/-- Rows 1 to 10 of R75, in its order. -/
def opcodeRowsA : List OpcodeRow :=
  [⟨"00E0", 0xFFFF, 0x00E0⟩, ⟨"00EE", 0xFFFF, 0x00EE⟩, ⟨"0NNN", 0xF000, 0x0000⟩,
   ⟨"1NNN", 0xF000, 0x1000⟩, ⟨"2NNN", 0xF000, 0x2000⟩, ⟨"3XNN", 0xF000, 0x3000⟩,
   ⟨"4XNN", 0xF000, 0x4000⟩, ⟨"5XY0", 0xF00F, 0x5000⟩, ⟨"6XNN", 0xF000, 0x6000⟩,
   ⟨"7XNN", 0xF000, 0x7000⟩]

/-- Rows 11 to 22 of R75. -/
def opcodeRowsB : List OpcodeRow :=
  [⟨"8XY0", 0xF00F, 0x8000⟩, ⟨"8XY1", 0xF00F, 0x8001⟩, ⟨"8XY2", 0xF00F, 0x8002⟩,
   ⟨"8XY3", 0xF00F, 0x8003⟩, ⟨"8XY4", 0xF00F, 0x8004⟩, ⟨"8XY5", 0xF00F, 0x8005⟩,
   ⟨"8XY6", 0xF00F, 0x8006⟩, ⟨"8XY7", 0xF00F, 0x8007⟩, ⟨"8XYE", 0xF00F, 0x800E⟩,
   ⟨"9XY0", 0xF00F, 0x9000⟩, ⟨"ANNN", 0xF000, 0xA000⟩, ⟨"BNNN", 0xF000, 0xB000⟩]

/-- Rows 23 to 35 of R75. -/
def opcodeRowsC : List OpcodeRow :=
  [⟨"CXNN", 0xF000, 0xC000⟩, ⟨"DXYN", 0xF000, 0xD000⟩, ⟨"EX9E", 0xF0FF, 0xE09E⟩,
   ⟨"EXA1", 0xF0FF, 0xE0A1⟩, ⟨"FX07", 0xF0FF, 0xF007⟩, ⟨"FX0A", 0xF0FF, 0xF00A⟩,
   ⟨"FX15", 0xF0FF, 0xF015⟩, ⟨"FX18", 0xF0FF, 0xF018⟩, ⟨"FX1E", 0xF0FF, 0xF01E⟩,
   ⟨"FX29", 0xF0FF, 0xF029⟩, ⟨"FX33", 0xF0FF, 0xF033⟩, ⟨"FX55", 0xF0FF, 0xF055⟩,
   ⟨"FX65", 0xF0FF, 0xF065⟩]

/-- The complete opcode map, in its order of priority (R75). -/
def opcodeMap : List OpcodeRow := opcodeRowsA ++ opcodeRowsB ++ opcodeRowsC

/-- The first row a word selects: rows 00E0 and 00EE take priority over 0NNN (R75). -/
def selectedRow (op : Word) : Option OpcodeRow := opcodeMap.find? (·.selects op)

end Sys2Proof
end

