-- ==== Sys2Proof/Config.lean ====
section
/-! DEFINITION. What is fixed for the machine (00_scope.md R5, R8) and the free values, which have no body (R9, R232). -/

namespace Sys2Proof

/-- `MEM_SIZE` (R5). -/
def Config.memSize : Nat := 4096

/-- `PROG_BASE` (R5): where the ROM is loaded and where execution starts. -/
def Config.progBase : Nat := 0x200

/-- `ROM_MAX = MEM_SIZE - PROG_BASE = 3584` (R5). -/
def Config.romMax : Nat := Config.memSize - Config.progBase

/-- `FONT_BASE` (R5): where the glyph table is loaded. -/
def Config.fontBase : Nat := 0x000

/-- A value of the parameter `FONT[0..79]` (R7): glyph `d` is the 5 bytes from `5 * d`, top row first
(R52). -/
abbrev FontTable := Vector Byte 80

/-- `KEY_AUTOCLEAR` (R8): disabled on this hardware; `step` refuses the enabled setting, which has no
defined behaviour. -/
def Config.keyAutoclear : Bool := false

/-- A piece of machine state, named so that the unspecified state after a failed load can be drawn
piece by piece (R232). -/
inductive Config.Piece where
  | v (r : RegIx) | i | pc | stack (k : Fin 16) | sp | dt | st | key (k : KeyIx) | disp (p : Fin 2048)
  | opc | chg (r : RegIx) | mem (a : Nat)
  deriving DecidableEq, Repr

/-- `RND` (R9): the random byte of the `n`-th draw. A free value: nothing is known of it but its width
(log 6). -/
opaque Config.rnd (n : Nat) : Byte

/-- What a failed load leaves in a piece of state ("all other state unspecified", R232), for the draw
numbered `n`. A free value; a piece narrower than 16 bits takes low bits of it (log 7). -/
opaque Config.unspecified (n : Nat) (p : Config.Piece) : Word

end Sys2Proof
end

