-- ==== Sys2Proof/Machine/State.lean ====
section
/-! DEFINITION. The State Store of 10_state.md as plain data, with the model's own three fields, and the state after reset
(10_state.md R40, 70_reset_and_hazards.md R231). -/

namespace Sys2Proof.Machine

/-- The host's fault outcome. Nothing answers it, so it has no constructor: every fatal fault of the
spec is an entry the spec describes (60_exceptions.md R202), which `State.raise` takes as a next state
(log 17). Safe: no run ends where the machine goes on. -/
inductive Fault where
  deriving DecidableEq, Repr

/-- Why a step has no meaning. -/
inductive Refusal where
  /-- Answered by a rejected arm of `exec`, for an instruction not modelled yet; no arm is one now.
  Safe. -/
  | notModelled (mnemonic : String)
  /-- Answered by `step` if `KEY_AUTOCLEAR` were enabled, which R8 says a model must refuse; it is
  disabled, so no step answers it (log 18). Safe. -/
  | keyAutoclearEnabled
  deriving DecidableEq, Repr

/-- The fatal fault recorded in `CAUSE` (R201). -/
inductive Cause where
  /-- No fault. -/
  | none
  /-- 2NNN with `SP = 16` (R203). -/
  | stackOverflow
  /-- 00EE with `SP = 0` (R204). -/
  | stackUnderflow
  /-- A data access above address 4095 (R205). -/
  | memFault
  /-- A fetch with `PC + 1 > 4095` (R206). -/
  | fetchFault
  /-- EX9E or EXA1 with `V[x] > 15` (R208). -/
  | keyIndexFault
  /-- The host's `reset_load` failed (R232). -/
  | romLoadError
  deriving DecidableEq, Repr

/-- The code of a cause in the table of R201. -/
def Cause.code : Cause → Nat
  | .none => 0
  | .stackOverflow => 1
  | .stackUnderflow => 2
  | .memFault => 3
  | .fetchFault => 4
  | .keyIndexFault => 5
  | .romLoadError => 6

/-- An event output (00_scope.md R13): one-step outputs, not state of the spec. -/
inductive Event where
  /-- Raised by 00E0 and DXYN (R160, R162). -/
  | redraw
  /-- Raised by an unrecognized opcode, with the opcode and its address (R207). -/
  | illegalOp (op pc : Word)
  deriving DecidableEq, Repr

/-- One action of an agent (00_scope.md R10, R12). -/
inductive Input where
  /-- `reset_load(rom)` of a core whose parameter `FONT` is `table` (R231, R232; R7, R39: a parameter of
  the step, consumed at reset; log 1). -/
  | resetLoad (table : FontTable) (rom : List Byte)
  /-- `reset_load` of a file the host cannot read (R232). -/
  | romUnreadable
  /-- `run` (R221). -/
  | run
  /-- `stop` (R222). -/
  | stop
  /-- `step_once` (R223). -/
  | stepOnce
  /-- The strobe of the instruction activity (R12, R220). -/
  | instrTick
  /-- The strobe of the timer activity (R215). -/
  | timerTick
  /-- One key event: `key_id` and `key_down` (R218). -/
  | keyEvent (k : KeyIx) (down : Bool)
  /-- The host reads the register file through the snapshot interface (R37). -/
  | readRegisters
  deriving DecidableEq, Repr

/-- Memory: the cells that differ from their reset content, addresses strictly rising
(20_memory.md R50, R51; `Memory.wf`). -/
abbrev Memory := List Host.Cell

/-- The whole machine. -/
structure State where
  /-- `V[0..15]`, VF = `V[15]` (R20, R21). -/
  v : Vector Byte 16
  /-- `I` (R22). -/
  i : Word
  /-- `PC` (R23). -/
  pc : Word
  /-- `STACK[0..15]` (R26). -/
  stack : Vector Word 16
  /-- `SP`, the number of return addresses held, 0 to 16 (R27). -/
  sp : Fin 17
  /-- `DT` (R28). -/
  dt : Byte
  /-- `ST` (R28). -/
  st : Byte
  /-- `KEY[0..15]`, true = pressed (R29). -/
  key : Vector Bool 16
  /-- `DISP[0..2047]`, true = lit, index `px + 64 * py` (R30). -/
  disp : Vector Bool 2048
  /-- `OPC`, the last fetched word (R31). -/
  opc : Word
  /-- `RUN`, true = Running (R32). -/
  run : Bool
  /-- `FAULT` (R33). -/
  fault : Bool
  /-- `CAUSE` (R33, R201). -/
  cause : Cause
  /-- `CHG[0..15]`, changed since read (R37). -/
  chg : Vector Bool 16
  /-- `MEM[0..4095]` (R50). -/
  mem : Memory
  /-- The model's own: how many free values have been drawn (log 6). -/
  draws : Nat
  /-- The model's own: the actions of the agents still to come, oldest first (log 4). -/
  schedule : List Input
  /-- The model's own: the event output of the step just taken (R13, log 8). -/
  event : Option Event
  deriving DecidableEq, Repr

/-- The state after a `reset_load` of the empty ROM with the default `FONT` (R40, R231; `State.resetWith`
for any other): every field as the table of R40 has
it (log 2, log 3), memory with nothing listed; the model's own fields start empty (log 4, log 6,
log 8). -/
def State.reset : State where
  v := Vector.replicate 16 0
  i := 0
  pc := 0x200
  stack := Vector.replicate 16 0
  sp := 0
  dt := 0
  st := 0
  key := Vector.replicate 16 false
  disp := Vector.replicate 2048 false
  opc := 0
  run := false
  fault := false
  cause := .none
  chg := Vector.replicate 16 false
  mem := []
  draws := 0
  schedule := []
  event := none

end Sys2Proof.Machine
end

