-- ==== Sys2Proof/Machine/Ops.lean ====
section
/-! DEFINITION. The named operations over memory, registers, stack and the display buffer, the fetch (20_memory.md), taking a
fatal fault (60_exceptions.md R202) and, beside it, the one way out of it (70_reset_and_hazards.md R231, R232). -/

namespace Sys2Proof.Machine

/-! Memory (20_memory.md). -/

/-- What an unlisted address reads as: its reset content with the default `FONT`, the font and then
zero (R51, R53; log 1, log 2). Another table is listed (`Memory.withFont`). -/
def Memory.resetByte (a : Nat) : Byte := defaultFont.getD a 0

/-- `MEM[a]`. -/
def Memory.get : Memory → Nat → Byte
  | [], a => Memory.resetByte a
  | (k, b) :: m, a => if a = k then b else Memory.get m a

/-- `MEM[a] <- b` in the canonical list: a cell at its reset content is not listed. -/
def Memory.put : Memory → Nat → Byte → Memory
  | [], a, b => if b = Memory.resetByte a then [] else [(a, b)]
  | (k, c) :: m, a, b =>
    if a < k then (if b = Memory.resetByte a then (k, c) :: m else (a, b) :: (k, c) :: m)
    else if a = k then (if b = Memory.resetByte a then m else (a, b) :: m)
    else (k, c) :: Memory.put m a b

/-- `MEM[a] <- b` where the address exists (R57); memory has no other cell (R50). -/
def Memory.set (m : Memory) (a : Nat) (b : Byte) : Memory :=
  if a < Config.memSize then m.put a b else m

/-- The canonical form from address `lo` up. -/
def Memory.wfFrom : Nat → Memory → Bool
  | _, [] => true
  | lo, (k, b) :: m =>
    decide (lo ≤ k) && decide (k < Config.memSize) && (b != Memory.resetByte k) && Memory.wfFrom (k + 1) m

/-- The canonical form: addresses strictly rising, all below 4096, no cell at its reset content. -/
def Memory.wf (m : Memory) : Bool := Memory.wfFrom 0 m

/-- The bytes `bs` written at `a`, `a + 1`, and so on. -/
def Memory.setBytes : Memory → Nat → List Byte → Memory
  | m, _, [] => m
  | m, a, b :: bs => Memory.setBytes (m.set a b) (a + 1) bs

/-- The memory that holds the 80 bytes of `table` from `FONT_BASE` up and zero elsewhere (R51, R231). -/
def Memory.withFont (table : FontTable) : Memory := Memory.setBytes [] Config.fontBase table.toList

/-- The memory whose cells `a` to `a + n - 1` hold `f` of their address and whose others are at their
reset content. -/
def Memory.tabulate (f : Nat → Byte) : Nat → Nat → Memory
  | 0, _ => []
  | n + 1, a =>
    if f a = Memory.resetByte a then Memory.tabulate f n (a + 1) else (a, f a) :: Memory.tabulate f n (a + 1)

/-- The byte of memory at `a`. -/
def State.readByte (s : State) (a : Nat) : Byte := s.mem.get a

/-- Store a byte at `a` (R57, after the instruction's bounds check). -/
def State.writeByte (a : Nat) (b : Byte) (s : State) : State := { s with mem := s.mem.set a b }

/-! General registers. -/

/-- The parameter `CHG_ON_ANY_WRITE = true` (R37, log 9). -/
def chgOnAnyWrite : Bool := true

/-- `V[x] <- b`, which sets `CHG[x]` (R37). -/
def State.writeV (x : RegIx) (b : Byte) (s : State) : State :=
  { s with
    v := s.v.set x b
    chg := s.chg.set x (chgOnAnyWrite || s.chg[x] || b != s.v[x]) }

/-- VF (R21). -/
def vf : RegIx := 15

/-- The numbers of the registers in ascending order. -/
def allRegs : List RegIx := [0, 1, 2, 3, 4, 5, 6, 7, 8, 9, 10, 11, 12, 13, 14, 15]

/-- The registers `V[0]` to `V[x]` inclusive, ascending (R144, R145). -/
def regsUpTo (x : RegIx) : List RegIx := allRegs.filter (· ≤ x)

/-! The other registers. -/

/-- `PC <- w`. -/
def State.setPc (w : Word) (s : State) : State := { s with pc := w }

/-- The default advance `PC <- PC + 2` (R18, R24). -/
def State.advance (s : State) : State := s.setPc (s.pc + 2)

/-- A skip: `PC + 4` when the condition holds, else `PC + 2` (R18, R24). -/
def State.skipIf (c : Bool) (s : State) : State := s.setPc (if c then s.pc + 4 else s.pc + 2)

/-- `I <- w`. -/
def State.setI (w : Word) (s : State) : State := { s with i := w }

/-- `DT <- b`. -/
def State.setDt (b : Byte) (s : State) : State := { s with dt := b }

/-- `ST <- b`. -/
def State.setSt (b : Byte) (s : State) : State := { s with st := b }

/-- `OPC <- op` (R31, R73). -/
def State.latch (op : Word) (s : State) : State := { s with opc := op }

/-- `DISP <- d`. -/
def State.setDisp (d : Vector Bool 2048) (s : State) : State := { s with disp := d }

/-- `KEY[k] <- down`. -/
def State.setKey (k : KeyIx) (down : Bool) (s : State) : State := { s with key := s.key.set k down }

/-- `RUN <- b`. -/
def State.setRun (b : Bool) (s : State) : State := { s with run := b }

/-- `emit e` (R15). -/
def State.emit (e : Event) (s : State) : State := { s with event := some e }

/-- One free value has been drawn (R9, log 6). -/
def State.countDraw (s : State) : State := { s with draws := s.draws + 1 }

/-- Every `CHG[i] <- 0` (R37). -/
def State.clearChg (s : State) : State := { s with chg := Vector.replicate 16 false }

/-- The start of a model step: the event output is lowered and `rest` is what is left to come
(log 4, log 8). -/
def State.begin (rest : List Input) (s : State) : State := { s with schedule := rest, event := none }

/-! The stack (R26, R27). -/

/-- Push a return address, unless 16 are held. -/
def State.push (w : Word) (s : State) : Option State :=
  if h : s.sp.val < 16 then
    some { s with stack := s.stack.set s.sp.val w h, sp := ⟨s.sp.val + 1, by omega⟩ }
  else none

/-- Pop: the return address and the state with `SP - 1`, unless none is held. The slot keeps its
value (R26). -/
def State.pop (s : State) : Option (Word × State) :=
  if h : 0 < s.sp.val then
    some (s.stack[s.sp.val - 1]'(by omega), { s with sp := ⟨s.sp.val - 1, by omega⟩ })
  else none

/-! Fetch. -/

/-- `Fetch(PC)` (R58): the two bytes at `PC`, high byte first (R55), unless `PC + 1 > 4095`. -/
def State.fetch (s : State) : Option Word :=
  if s.pc.toNat + 1 ≤ 4095 then some (wordOfBytes (s.readByte s.pc.toNat) (s.readByte (s.pc.toNat + 1)))
  else none

/-! Fatal faults. -/

/-- Fault entry (R202): `FAULT <- 1`, `CAUSE <- code`, `RUN <- 0`, and nothing else. -/
def State.raise (c : Cause) (s : State) : State := { s with fault := true, cause := c, run := false }

/-- The state after reset of a core whose parameter `FONT` is `table` (R7, R40). -/
def State.resetWith (table : FontTable) : State := { State.reset with mem := Memory.withFont table }

/-- The state after a successful load (R231): font and ROM in memory, everything else at its reset
value. The draws made and the actions still to come are no state of the spec and stay. -/
def State.loaded (table : FontTable) (rom : List Byte) (s : State) : State :=
  { State.resetWith table with
    mem := Memory.setBytes (State.resetWith table).mem Config.progBase rom
    draws := s.draws
    schedule := s.schedule
    event := s.event }

/-- The state after a failed load (R232): `FAULT = 1`, `CAUSE = 6`, `RUN = 0`, every other piece of
state a free value within its width (log 7). -/
def State.loadFailed (s : State) : State :=
  let u := Config.unspecified s.draws
  { v := Vector.ofFn fun r => (u (.v r)).setWidth 8
    i := u .i
    pc := u .pc
    stack := Vector.ofFn fun k => u (.stack k)
    sp := Fin.ofNat 17 (u .sp).toNat
    dt := (u .dt).setWidth 8
    st := (u .st).setWidth 8
    key := Vector.ofFn fun k => (u (.key k)).getLsbD 0
    disp := Vector.ofFn fun p => (u (.disp p)).getLsbD 0
    opc := u .opc
    run := false
    fault := true
    cause := .romLoadError
    chg := Vector.ofFn fun r => (u (.chg r)).getLsbD 0
    mem := Memory.tabulate (fun a => (u (.mem a)).setWidth 8) Config.memSize 0
    draws := s.draws + 1
    schedule := s.schedule
    event := s.event }

/-- `reset_load(rom)` with `FONT = table` (R231, R232): a ROM longer than 3584 bytes fails. -/
def State.resetLoad (table : FontTable) (rom : List Byte) (s : State) : State :=
  if rom.length ≤ Config.romMax then s.loaded table rom else s.loadFailed

end Sys2Proof.Machine
end

