-- ==== Sys2Proof/Machine/Agents.lean ====
section
/-! DEFINITION. The steps of the agents other than the instruction agent, and the unrecognized opcode (60_exceptions.md,
10_state.md R37). -/

namespace Sys2Proof.Machine

/-- Decrement toward zero, never below (R215). -/
def decToZero (b : Byte) : Byte := if b.toNat > 0 then BitVec.ofNat 8 (b.toNat - 1) else b

/-- `TimerTick` (R215): both timers, only while Running and not faulted (log 19). -/
def timerTick (s : State) : State :=
  if s.run && !s.fault then (s.setDt (decToZero s.dt)).setSt (decToZero s.st) else s

/-- `KeyEvent(k, down)` (R218), whatever `RUN` and `FAULT` are (log 18). -/
def keyEvent (k : KeyIx) (down : Bool) (s : State) : State := s.setKey k down

/-- `run` (R221). -/
def runCommand (s : State) : State := if !s.fault && !s.run then s.setRun true else s

/-- `stop` (R222). -/
def stopCommand (s : State) : State := s.setRun false

/-- The host reads the register file: the changed flags are cleared (R37). -/
def readRegisters (s : State) : State := s.clearChg

/-- A load of a file the host cannot read: the outcome of a failed load (R232, log 25). -/
def romUnreadable (s : State) : State := s.loadFailed

/-- The unrecognized opcode (R207): an `illegal_op` event and the default advance. -/
def execUnrecognized (op : Word) (s : State) : State := (s.emit (.illegalOp op s.pc)).advance

end Sys2Proof.Machine
end

