-- ==== Sys2Proof/Machine/Flags.lean ====
section
/-! DEFINITION. Every arithmetic result and flag of the spec (41_alu.md R132), the write of VF (10_state.md R21) and the order of
result and flag (41_alu.md R133). -/

namespace Sys2Proof.Machine

/-- The integer sum reduced modulo 256 (R132). -/
def sumByte (a b : Byte) : Byte := BitVec.ofNat 8 (a.toNat + b.toNat)

/-- Carry: "VF = 1 iff the integer sum exceeds 255" (R132). -/
def carryOut (a b : Byte) : Bool := decide (a.toNat + b.toNat > 255)

/-- The integer difference `a - b` reduced modulo 256 (R132). -/
def diffByte (a b : Byte) : Byte := BitVec.ofInt 8 ((a.toNat : Int) - (b.toNat : Int))

/-- No borrow: "VF = 1 iff the minuend is strictly greater than the subtrahend" (R132). -/
def noBorrow (a b : Byte) : Bool := decide (a.toNat > b.toNat)

/-- Logical shift right by one: `floor(a / 2)` (R128). -/
def shrByte (a : Byte) : Byte := BitVec.ofNat 8 (a.toNat / 2)

/-- The bit shifted out to the right: bit 0 (R128). -/
def shrOut (a : Byte) : Bool := a.getLsbD 0

/-- Shift left by one: `(2 * a) mod 256` (R130). -/
def shlByte (a : Byte) : Byte := BitVec.ofNat 8 (2 * a.toNat)

/-- The bit shifted out to the left: bit 7 (R130). -/
def shlOut (a : Byte) : Bool := a.getLsbD 7

/-- A flag as the byte 0 or 1 (R21). -/
def flagByte (c : Bool) : Byte := if c then 1 else 0

/-- `V[15] <- flag` (R21). -/
def State.writeFlag (c : Bool) (s : State) : State := s.writeV vf (flagByte c)

/-- The result is written first and the flag last, so that with `x = F` the flag stays (R133,
log 11). -/
def State.writeWithFlag (x : RegIx) (r : Byte) (c : Bool) (s : State) : State :=
  (s.writeV x r).writeFlag c

end Sys2Proof.Machine
end

