-- ==== Sys2Proof/Machine/Alu.lean ====
section
/-! DEFINITION. The load, arithmetic, logic, shift and random instructions (41_alu.md). Every operand is read from the state
before the step (00_scope.md R16). -/

namespace Sys2Proof.Machine

/-- 6XNN (R120). -/
def exec6XNN (x : RegIx) (nn : Byte) (s : State) : Host.Outcome State Fault Refusal :=
  .next (s.writeV x nn).advance

/-- 7XNN (R121): VF is not written. -/
def exec7XNN (x : RegIx) (nn : Byte) (s : State) : Host.Outcome State Fault Refusal :=
  .next (s.writeV x (sumByte s.v[x] nn)).advance

/-- 8XY0 (R122). -/
def exec8XY0 (x y : RegIx) (s : State) : Host.Outcome State Fault Refusal :=
  .next (s.writeV x s.v[y]).advance

/-- 8XY1 (R123). -/
def exec8XY1 (x y : RegIx) (s : State) : Host.Outcome State Fault Refusal :=
  .next (s.writeV x (s.v[x] ||| s.v[y])).advance

/-- 8XY2 (R124). -/
def exec8XY2 (x y : RegIx) (s : State) : Host.Outcome State Fault Refusal :=
  .next (s.writeV x (s.v[x] &&& s.v[y])).advance

/-- 8XY3 (R125). -/
def exec8XY3 (x y : RegIx) (s : State) : Host.Outcome State Fault Refusal :=
  .next (s.writeV x (s.v[x] ^^^ s.v[y])).advance

/-- 8XY4 (R126). -/
def exec8XY4 (x y : RegIx) (s : State) : Host.Outcome State Fault Refusal :=
  .next (s.writeWithFlag x (sumByte s.v[x] s.v[y]) (carryOut s.v[x] s.v[y])).advance

/-- 8XY5 (R127). -/
def exec8XY5 (x y : RegIx) (s : State) : Host.Outcome State Fault Refusal :=
  .next (s.writeWithFlag x (diffByte s.v[x] s.v[y]) (noBorrow s.v[x] s.v[y])).advance

/-- 8XY6 (R128): `V[y]` plays no part. -/
def exec8XY6 (x _y : RegIx) (s : State) : Host.Outcome State Fault Refusal :=
  .next (s.writeWithFlag x (shrByte s.v[x]) (shrOut s.v[x])).advance

/-- 8XY7 (R129). -/
def exec8XY7 (x y : RegIx) (s : State) : Host.Outcome State Fault Refusal :=
  .next (s.writeWithFlag x (diffByte s.v[y] s.v[x]) (noBorrow s.v[y] s.v[x])).advance

/-- 8XYE (R130): `V[y]` plays no part. -/
def exec8XYE (x _y : RegIx) (s : State) : Host.Outcome State Fault Refusal :=
  .next (s.writeWithFlag x (shlByte s.v[x]) (shlOut s.v[x])).advance

/-- CXNN (R131): the drawn byte is a free value (R9, log 6). -/
def execCXNN (x : RegIx) (nn : Byte) (s : State) : Host.Outcome State Fault Refusal :=
  .next (s.countDraw.writeV x (Config.rnd s.draws &&& nn)).advance

end Sys2Proof.Machine
end

