-- ==== Sys2Proof/Machine/Operands.lean ====
section
/-! DEFINITION. The operand forms: immediates (30_encoding.md R76), the one addressing mode (42_index_memory.md R146), key
indices (44_keypad_timer.md R180), font and decimal digits (R142, R143) and the sprite (43_display.md R161). -/

namespace Sys2Proof.Machine

/-- `zext_16(nnn)` (R76). -/
def zextAddr (nnn : Addr) : Word := nnn.setWidth 16

/-- `zext_16(V[x])` (R108, R141). -/
def zextByte (b : Byte) : Word := b.setWidth 16

/-- The effective address `I + k`, a natural number not reduced modulo anything (R146). -/
def State.ea (s : State) (k : Nat) : Nat := s.i.toNat + k

/-- "any effective address above 4095 raises MemFault" (R146, R56, R57). -/
def outOfMemory (a : Nat) : Bool := decide (a > 4095)

/-- The key a register value names; there is none above 15 (R180). -/
def keyOf (b : Byte) : Option KeyIx := if h : b.toNat < 16 then some ⟨b.toNat, h⟩ else none

/-- The keys in ascending order. -/
def allKeys : List KeyIx := [0, 1, 2, 3, 4, 5, 6, 7, 8, 9, 10, 11, 12, 13, 14, 15]

/-- The lowest-numbered pressed key (R182, log 10). -/
def State.lowestKey (s : State) : Option KeyIx := allKeys.find? fun k => s.key[k]

/-- The address of the glyph of the low nibble: `5 * d` (R142, R52). -/
def glyphAddr (b : Byte) : Word := BitVec.ofNat 16 (5 * (b.toNat % 16))

/-- The hundreds digit: `v div 100` (R143). -/
def hundreds (b : Byte) : Byte := BitVec.ofNat 8 (b.toNat / 100)

/-- The tens digit: `(v div 10) mod 10` (R143). -/
def tens (b : Byte) : Byte := BitVec.ofNat 8 (b.toNat / 10 % 10)

/-- The ones digit: `v mod 10` (R143). -/
def ones (b : Byte) : Byte := BitVec.ofNat 8 (b.toNat % 10)

/-- The target of sprite pixel (`col`, `row`): `(V[x] + col) + 64 * (V[y] + row)` on natural numbers
(R161, log 12). -/
def pixelIndex (vx vy : Byte) (col row : Nat) : Nat := (vx.toNat + col) + 64 * (vy.toNat + row)

/-- The targets of the set bits of one sprite row, left to right: column `col` is bit `7 - col`
(R161). -/
def rowTargets (b vx vy : Byte) (row : Nat) : List Nat :=
  ((List.range 8).filter fun col => b.getLsbD (7 - col)).map fun col => pixelIndex vx vy col row

/-- The targets of the set bits of the `n`-row sprite at `I`, in the order of the loops of R162. -/
def State.spriteTargets (s : State) (vx vy : Byte) (n : Nat) : List Nat :=
  (List.range n).flatMap fun row => rowTargets (s.readByte (s.ea row)) vx vy row

/-- The display buffer while a sprite is drawn, with the collision seen so far (R163). -/
structure Canvas where
  disp : Vector Bool 2048
  hit : Bool
  deriving DecidableEq, Repr

/-- Toggle the pixel at `idx`, a collision if it was lit; an index of 2048 or more is skipped
(R161, R162). -/
def Canvas.toggle (c : Canvas) (idx : Nat) : Canvas :=
  if h : idx < 2048 then
    { disp := c.disp.set idx (!c.disp[idx]), hit := c.hit || c.disp[idx] }
  else c

/-- Toggle every target in turn. -/
def Canvas.toggleAll (c : Canvas) (targets : List Nat) : Canvas := targets.foldl Canvas.toggle c

/-- The sprite drawn on the display of `s`, with its collision (R162). -/
def State.blit (s : State) (vx vy : Byte) (n : Nat) : Canvas :=
  Canvas.toggleAll ⟨s.disp, false⟩ (s.spriteTargets vx vy n)

end Sys2Proof.Machine
end

