-- ==== Sys2Proof/Machine/Control.lean ====
section
/-! DEFINITION. The control-flow instructions (40_control_flow.md). -/

namespace Sys2Proof.Machine

/-- 0NNN (R100): a deliberate no-op, no event. -/
def exec0NNN (_nnn : Addr) (s : State) : Host.Outcome State Fault Refusal := .next s.advance

/-- 00EE (R101): `PC` is the popped address plus 2 (log 15); StackUnderflow when none is held
(R204). -/
def exec00EE (s : State) : Host.Outcome State Fault Refusal :=
  match s.pop with
  | some (ret, t) => .next (t.setPc (ret + 2))
  | none => .next (s.raise .stackUnderflow)

/-- 1NNN (R102). -/
def exec1NNN (nnn : Addr) (s : State) : Host.Outcome State Fault Refusal := .next (s.setPc (zextAddr nnn))

/-- 2NNN (R103): pushes its own address (log 15); StackOverflow when 16 are held (R203). -/
def exec2NNN (nnn : Addr) (s : State) : Host.Outcome State Fault Refusal :=
  match s.push s.pc with
  | some t => .next (t.setPc (zextAddr nnn))
  | none => .next (s.raise .stackOverflow)

/-- 3XNN (R104). -/
def exec3XNN (x : RegIx) (nn : Byte) (s : State) : Host.Outcome State Fault Refusal :=
  .next (s.skipIf (s.v[x] == nn))

/-- 4XNN (R105). -/
def exec4XNN (x : RegIx) (nn : Byte) (s : State) : Host.Outcome State Fault Refusal :=
  .next (s.skipIf (s.v[x] != nn))

/-- 5XY0 (R106). -/
def exec5XY0 (x y : RegIx) (s : State) : Host.Outcome State Fault Refusal :=
  .next (s.skipIf (s.v[x] == s.v[y]))

/-- 9XY0 (R107). -/
def exec9XY0 (x y : RegIx) (s : State) : Host.Outcome State Fault Refusal :=
  .next (s.skipIf (s.v[x] != s.v[y]))

/-- BNNN (R108): always `V[0]`. -/
def execBNNN (nnn : Addr) (s : State) : Host.Outcome State Fault Refusal :=
  .next (s.setPc (zextAddr nnn + zextByte s.v[(0 : RegIx)]))

end Sys2Proof.Machine
end

