-- ==== Sys2Proof/Machine/Display.lean ====
section
/-! DEFINITION. The display instructions (43_display.md). -/

namespace Sys2Proof.Machine

/-- 00E0 (R160). -/
def exec00E0 (s : State) : Host.Outcome State Fault Refusal :=
  .next ((s.setDisp (Vector.replicate 2048 false)).emit .redraw).advance

/-- Whether a sprite byte of DXYN lies above memory: "n > 0 and I + n - 1 > 4095" (R162). -/
def State.spriteOutOfMemory (s : State) (n : Nat) : Bool := decide (n > 0) && outOfMemory (s.ea (n - 1))

/-- DXYN (R162): the coordinates are read before VF is written; VF is always written (R163). -/
def execDXYN (x y : RegIx) (n : Nibble) (s : State) : Host.Outcome State Fault Refusal :=
  if s.spriteOutOfMemory n.toNat then .next (s.raise .memFault)
  else
    let c := s.blit s.v[x] s.v[y] n.toNat
    .next (((s.setDisp c.disp).writeFlag c.hit).emit .redraw).advance

end Sys2Proof.Machine
end

