-- ==== Sys2Proof/Machine/Index.lean ====
section
/-! DEFINITION. The index-register and memory instructions (42_index_memory.md). The highest address is checked before anything
changes (R146, log 13). -/

namespace Sys2Proof.Machine

/-- ANNN (R140). -/
def execANNN (nnn : Addr) (s : State) : Host.Outcome State Fault Refusal :=
  .next (s.setI (zextAddr nnn)).advance

/-- FX1E (R141): modulo 65536, VF not written. -/
def execFX1E (x : RegIx) (s : State) : Host.Outcome State Fault Refusal :=
  .next (s.setI (s.i + zextByte s.v[x])).advance

/-- FX29 (R142). -/
def execFX29 (x : RegIx) (s : State) : Host.Outcome State Fault Refusal :=
  .next (s.setI (glyphAddr s.v[x])).advance

/-- FX33 (R143): hundreds, tens, ones at `I`, `I + 1`, `I + 2`. -/
def execFX33 (x : RegIx) (s : State) : Host.Outcome State Fault Refusal :=
  if outOfMemory (s.ea 2) then .next (s.raise .memFault)
  else
    .next (((s.writeByte (s.ea 0) (hundreds s.v[x])).writeByte (s.ea 1) (tens s.v[x])).writeByte
      (s.ea 2) (ones s.v[x])).advance

/-- The registers `V[0..x]` stored from `I` up (R144). -/
def State.storeRegs (x : RegIx) (s : State) : State :=
  (regsUpTo x).foldl (fun t k => t.writeByte (s.ea k.val) s.v[k]) s

/-- FX55 (R144): `I` is not changed. -/
def execFX55 (x : RegIx) (s : State) : Host.Outcome State Fault Refusal :=
  if outOfMemory (s.ea x.val) then .next (s.raise .memFault) else .next (s.storeRegs x).advance

/-- The registers `V[0..x]` loaded from `I` up (R145). -/
def State.loadRegs (x : RegIx) (s : State) : State :=
  (regsUpTo x).foldl (fun t k => t.writeV k (s.readByte (s.ea k.val))) s

/-- FX65 (R145): `I` is not changed. -/
def execFX65 (x : RegIx) (s : State) : Host.Outcome State Fault Refusal :=
  if outOfMemory (s.ea x.val) then .next (s.raise .memFault) else .next (s.loadRegs x).advance

end Sys2Proof.Machine
end

