-- ==== Sys2Proof/Machine/Keypad.lean ====
section
/-! DEFINITION. The keypad and timer instructions (44_keypad_timer.md). -/

namespace Sys2Proof.Machine

/-- EX9E (R180): KeyIndexFault when `V[x] > 15` (R208, log 14). -/
def execEX9E (x : RegIx) (s : State) : Host.Outcome State Fault Refusal :=
  match keyOf s.v[x] with
  | some k => .next (s.skipIf s.key[k])
  | none => .next (s.raise .keyIndexFault)

/-- EXA1 (R181). -/
def execEXA1 (x : RegIx) (s : State) : Host.Outcome State Fault Refusal :=
  match keyOf s.v[x] with
  | some k => .next (s.skipIf (!s.key[k]))
  | none => .next (s.raise .keyIndexFault)

/-- FX0A (R182): retried while no key is pressed, `PC` unchanged (log 10). -/
def execFX0A (x : RegIx) (s : State) : Host.Outcome State Fault Refusal :=
  match s.lowestKey with
  | some k => .next (s.writeV x (BitVec.ofNat 8 k.val)).advance
  | none => .next s

/-- FX07 (R183). -/
def execFX07 (x : RegIx) (s : State) : Host.Outcome State Fault Refusal := .next (s.writeV x s.dt).advance

/-- FX15 (R184). -/
def execFX15 (x : RegIx) (s : State) : Host.Outcome State Fault Refusal := .next (s.setDt s.v[x]).advance

/-- FX18 (R185). -/
def execFX18 (x : RegIx) (s : State) : Host.Outcome State Fault Refusal := .next (s.setSt s.v[x]).advance

end Sys2Proof.Machine
end

