-- ==== Sys2Proof/Machine/Scheduler.lean ====
section
/-! DEFINITION. The `Step` of the instruction agent (30_encoding.md R73) and the action of each agent (00_scope.md R10, R12;
60_exceptions.md R220 to R223). -/

namespace Sys2Proof.Machine

/-- The decode and execute half of `Step`, after the fetch of `op` (R73, R207). -/
def execWord (op : Word) (s : State) : Host.Outcome State Fault Refusal :=
  match decodeWord op with
  | .ok i => exec i (s.latch op)
  | .error _ => .next (execUnrecognized op (s.latch op))

/-- `Step` (R73): nothing while faulted; FetchFault before decode, with `OPC` not written (R206). -/
def instrStep (s : State) : Host.Outcome State Fault Refusal :=
  if s.fault then .next s
  else
    match s.fetch with
    | none => .next (s.raise .fetchFault)
    | some op => execWord op s

/-- `instr_tick`: one `Step` while `RUN = 1`, ignored while Stopped (R12, R220). -/
def instrTick (s : State) : Host.Outcome State Fault Refusal := if s.run then instrStep s else .next s

/-- One atomic action of an agent (R10). -/
def act (a : Input) (s : State) : Host.Outcome State Fault Refusal :=
  match a with
  | .resetLoad table rom => .next (s.resetLoad table rom)
  | .romUnreadable => .next (romUnreadable s)
  | .run => .next (runCommand s)
  | .stop => .next (stopCommand s)
  | .stepOnce => instrStep s
  | .instrTick => instrTick s
  | .timerTick => .next (timerTick s)
  | .keyEvent k down => .next (keyEvent k down s)
  | .readRegisters => .next (readRegisters s)

/-- The action the next step takes: the oldest one still to come, and `step_once` when none is listed
(log 4). -/
def State.nextInput (s : State) : Input := s.schedule.headD .stepOnce

/-- One step: the next action, taken with the event output lowered and the rest still to come. -/
def takeStep (s : State) : Host.Outcome State Fault Refusal :=
  act s.nextInput (s.begin s.schedule.tail)

/-! A word placed where the next step fetches. -/

/-- A program counter an instruction can be fetched from: `PC` itself unless it is past 0xFFE (R58),
then the entry point. -/
def fetchablePc (pc : Word) : Word := if pc.toNat + 1 ≤ 4095 then pc else 0x200

/-- The word `op` stored at the (fetchable) `PC`, high byte first, with the core not faulted and the
instruction agent to move next, so that the next step runs it (log 5). -/
def placeWord (op : Word) (s : State) : State :=
  let pc := fetchablePc s.pc
  { s with
    pc := pc
    mem := (s.mem.set pc.toNat (highByte op)).set (pc.toNat + 1) (lowByte op)
    fault := false
    cause := .none
    schedule := [] }

end Sys2Proof.Machine
end

