-- ==== Sys2Proof/Machine/Step.lean ====
section
/-! DEFINITION. One step of the machine, and an instruction placed where it fetches next. -/

namespace Sys2Proof.Machine

/-- One atomic step of the agent whose turn it is. The enabled `KEY_AUTOCLEAR` is refused (R8). -/
def step (s : State) : Host.Outcome State Fault Refusal :=
  if Config.keyAutoclear then .refused .keyAutoclearEnabled else takeStep s

/-- `s` with a table word stored where the next step fetches (log 5). -/
def State.withFetchWord (s : State) (nbits w : Nat) : State := placeWord (tableWord nbits w) s

end Sys2Proof.Machine
end

