-- ==== Sys2Proof/Machine/View.lean ====
section
/-! DEFINITION. The host's read-only views of the state (00_scope.md R13, 10_state.md R38). None of them changes state; the one
read that does, of the register file, is `readRegisters` (R37). -/

namespace Sys2Proof.Machine

/-- The diagnostic snapshot (R38); `mnemonic` is `none` for an unrecognized opcode, the marker of R38.
Its category and description texts are in no source (log 22). -/
structure Snapshot where
  mnemonic : Option String
  pc : Word
  opc : Word
  deriving DecidableEq, Repr

/-- The snapshot, "a function of `OPC` and `PC` after the step" (R38). -/
def State.snapshot (s : State) : Snapshot :=
  { mnemonic := match decodeWord s.opc with
      | .ok i => some i.mnemonic
      | .error _ => none
    pc := s.pc
    opc := s.opc }

/-- `sound_active = (ST > 0)` (R28, R217). -/
def State.soundActive (s : State) : Bool := decide (s.st.toNat > 0)

/-- The register file: each value with its changed flag (R13, R37). -/
def State.registerFile (s : State) : List (Byte × Bool) := allRegs.map fun r => (s.v[r], s.chg[r])

/-- The stack contents and the stack pointer (R13, R26). -/
def State.stackView (s : State) : List Word × Nat := (s.stack.toList, s.sp.val)

/-- All 4096 memory bytes (R13). -/
def State.memoryView (s : State) : List Byte := (List.range Config.memSize).map s.readByte

/-- "the memory row corresponding to the current program counter" (R13), for a row of `width` bytes:
no source gives the width (log 22). An address past memory has no byte in the row. -/
def State.memoryRow (width : Nat) (s : State) : List Byte :=
  (((List.range width).map (s.pc.toNat / width * width + ·)).filter (· < Config.memSize)).map s.readByte

/-- The pixel at column `px`, row `py` (R30). -/
def State.pixel (s : State) (px : Fin 64) (py : Fin 32) : Bool :=
  s.disp[px.val + 64 * py.val]'(by omega)

/-- The `FAULT` output and its cause code (R13, R201). -/
def State.faultView (s : State) : Bool × Nat := (s.fault, s.cause.code)

end Sys2Proof.Machine
end

