-- ==== Sys2Proof/Safety.lean ====
section
/-! DEFINITION. The terms claims are stated in: the invariant, what an instruction may write (10_state.md R36), where it leaves
`PC` (R24), when it raises a fault (60_exceptions.md R201), the end of a run (70_reset_and_hazards.md R249), fair schedules
(R243). None of them calls a meaning. -/

namespace Sys2Proof.Safety

open Sys2Proof.Machine

/-- The invariant of every step: memory is canonical, `CAUSE` is none exactly while `FAULT = 0` (R201), and a faulted core
is Stopped (R202). -/
abbrev Inv (s : State) : Prop :=
  s.mem.wf = true ∧ (s.fault = true ↔ s.cause ≠ .none) ∧ (s.fault = true → s.run = false)

/-- Fault entry (R202): `FAULT`, `CAUSE`, `RUN` and nothing else. -/
def FaultTaken (c : Cause) (s t : State) : Prop :=
  t = { s with fault := true, cause := c, run := false }

/-- The pieces of state besides the general registers that some instruction writes (R36), the event output among them.
`pc` and `opc` are not listed: every step writes them. -/
inductive Part where
  | i | stack | sp | dt | st | disp | event | draws
  deriving DecidableEq, Repr

/-- The general registers an instruction may write (R36, R20, R21). -/
def regsWritten : Instr → List RegIx
  | .op6XNN x _ | .op7XNN x _ | .opCXNN x _ => [x]
  | .op8XY0 x _ | .op8XY1 x _ | .op8XY2 x _ | .op8XY3 x _ => [x]
  | .op8XY4 x _ | .op8XY5 x _ | .op8XY6 x _ | .op8XY7 x _ | .op8XYE x _ => [x, 15]
  | .opDXYN _ _ _ => [15]
  | .opFX07 x | .opFX0A x => [x]
  | .opFX65 x => allRegs.filter (· ≤ x)
  | .op00E0 | .op00EE | .op0NNN _ | .op1NNN _ | .op2NNN _ | .op3XNN _ _ | .op4XNN _ _ => []
  | .op5XY0 _ _ | .op9XY0 _ _ | .opANNN _ | .opBNNN _ | .opEX9E _ | .opEXA1 _ => []
  | .opFX15 _ | .opFX18 _ | .opFX1E _ | .opFX29 _ | .opFX33 _ | .opFX55 _ => []

/-- The other pieces of state an instruction may write (R36; the events of R160, R162; the draw of R131). -/
def partsWritten : Instr → List Part
  | .op00E0 | .opDXYN _ _ _ => [.disp, .event]
  | .op00EE => [.sp]
  | .op2NNN _ => [.stack, .sp]
  | .opANNN _ | .opFX1E _ | .opFX29 _ => [.i]
  | .opCXNN _ _ => [.draws]
  | .opFX15 _ => [.dt]
  | .opFX18 _ => [.st]
  | .op0NNN _ | .op1NNN _ | .op3XNN _ _ | .op4XNN _ _ | .op5XY0 _ _ | .op6XNN _ _ | .op7XNN _ _ => []
  | .op8XY0 _ _ | .op8XY1 _ _ | .op8XY2 _ _ | .op8XY3 _ _ | .op8XY4 _ _ | .op8XY5 _ _ => []
  | .op8XY6 _ _ | .op8XY7 _ _ | .op8XYE _ _ | .op9XY0 _ _ | .opBNNN _ => []
  | .opEX9E _ | .opEXA1 _ | .opFX07 _ | .opFX0A _ | .opFX33 _ | .opFX55 _ | .opFX65 _ => []

/-- The number of bytes an instruction stores from address `I` up (R60): FX33 three, FX55 `x + 1`, every other none. -/
def bytesStored : Instr → Nat
  | .opFX33 _ => 3
  | .opFX55 x => x.val + 1
  | .op00E0 | .op00EE | .op0NNN _ | .op1NNN _ | .op2NNN _ | .op3XNN _ _ | .op4XNN _ _ => 0
  | .op5XY0 _ _ | .op6XNN _ _ | .op7XNN _ _ | .op8XY0 _ _ | .op8XY1 _ _ | .op8XY2 _ _ => 0
  | .op8XY3 _ _ | .op8XY4 _ _ | .op8XY5 _ _ | .op8XY6 _ _ | .op8XY7 _ _ | .op8XYE _ _ => 0
  | .op9XY0 _ _ | .opANNN _ | .opBNNN _ | .opCXNN _ _ | .opDXYN _ _ _ => 0
  | .opEX9E _ | .opEXA1 _ | .opFX07 _ | .opFX0A _ | .opFX15 _ | .opFX18 _ => 0
  | .opFX1E _ | .opFX29 _ | .opFX65 _ => 0

/-- The frame: from `s` to `t` nothing changes but the registers `regs` (with their changed flags), the pieces `parts`, the
`n` bytes of memory from address `I` up (the effective address the stores use), and `PC`. -/
structure Keeps (regs : List RegIx) (parts : List Part) (n : Nat) (s t : State) : Prop where
  regs_kept : ∀ r, r ∉ regs → t.v[r] = s.v[r] ∧ t.chg[r] = s.chg[r]
  i_kept : Part.i ∉ parts → t.i = s.i
  stack_kept : Part.stack ∉ parts → t.stack = s.stack
  sp_kept : Part.sp ∉ parts → t.sp = s.sp
  dt_kept : Part.dt ∉ parts → t.dt = s.dt
  st_kept : Part.st ∉ parts → t.st = s.st
  key_kept : t.key = s.key
  disp_kept : Part.disp ∉ parts → t.disp = s.disp
  opc_kept : t.opc = s.opc
  run_kept : t.run = s.run
  fault_kept : t.fault = s.fault ∧ t.cause = s.cause
  memory_kept : ∀ a, ¬ (s.ea 0 ≤ a ∧ a < s.ea n) → t.readByte a = s.readByte a
  event_kept : Part.event ∉ parts → t.event = s.event
  draws_kept : Part.draws ∉ parts → t.draws = s.draws
  schedule_kept : t.schedule = s.schedule

/-- Where an instruction that raises no fault leaves `PC` (R24). -/
def pcAfter (i : Instr) (s : State) : Word :=
  match i with
  | .op1NNN nnn | .op2NNN nnn => nnn.setWidth 16
  | .opBNNN nnn => nnn.setWidth 16 + (s.v[(0 : RegIx)]).setWidth 16
  | .op00EE => s.stack[s.sp.val - 1]'(by omega) + 2
  | .op3XNN x nn => if s.v[x] = nn then s.pc + 4 else s.pc + 2
  | .op4XNN x nn => if s.v[x] ≠ nn then s.pc + 4 else s.pc + 2
  | .op5XY0 x y => if s.v[x] = s.v[y] then s.pc + 4 else s.pc + 2
  | .op9XY0 x y => if s.v[x] ≠ s.v[y] then s.pc + 4 else s.pc + 2
  | .opEX9E x => if ∃ k : KeyIx, k.val = (s.v[x]).toNat ∧ s.key[k] = true then s.pc + 4 else s.pc + 2
  | .opEXA1 x => if ∃ k : KeyIx, k.val = (s.v[x]).toNat ∧ s.key[k] = false then s.pc + 4 else s.pc + 2
  | .opFX0A _ => if ∃ k : KeyIx, s.key[k] = true then s.pc + 2 else s.pc
  | .op00E0 | .op0NNN _ | .op6XNN _ _ | .op7XNN _ _ | .op8XY0 _ _ | .op8XY1 _ _ | .op8XY2 _ _ => s.pc + 2
  | .op8XY3 _ _ | .op8XY4 _ _ | .op8XY5 _ _ | .op8XY6 _ _ | .op8XY7 _ _ | .op8XYE _ _ => s.pc + 2
  | .opANNN _ | .opCXNN _ _ | .opDXYN _ _ _ | .opFX07 _ | .opFX15 _ | .opFX18 _ => s.pc + 2
  | .opFX1E _ | .opFX29 _ | .opFX33 _ | .opFX55 _ | .opFX65 _ => s.pc + 2

/-- The fault an instruction raises in a state, by the column "when" of the table of R201. -/
def faultOf (i : Instr) (s : State) : Option Cause :=
  match i with
  | .op2NNN _ => if s.sp.val = 16 then some .stackOverflow else none
  | .op00EE => if s.sp.val = 0 then some .stackUnderflow else none
  | .opDXYN _ _ n => if 0 < n.toNat ∧ s.i.toNat + n.toNat - 1 > 4095 then some .memFault else none
  | .opFX33 _ => if s.i.toNat + 2 > 4095 then some .memFault else none
  | .opFX55 x | .opFX65 x => if s.i.toNat + x.val > 4095 then some .memFault else none
  | .opEX9E x | .opEXA1 x => if (s.v[x]).toNat > 15 then some .keyIndexFault else none
  | .op00E0 | .op0NNN _ | .op1NNN _ | .op3XNN _ _ | .op4XNN _ _ | .op5XY0 _ _ | .op6XNN _ _ => none
  | .op7XNN _ _ | .op8XY0 _ _ | .op8XY1 _ _ | .op8XY2 _ _ | .op8XY3 _ _ | .op8XY4 _ _ => none
  | .op8XY5 _ _ | .op8XY6 _ _ | .op8XY7 _ _ | .op8XYE _ _ | .op9XY0 _ _ => none
  | .opANNN _ | .opBNNN _ | .opCXNN _ _ => none
  | .opFX07 _ | .opFX0A _ | .opFX15 _ | .opFX18 _ | .opFX1E _ | .opFX29 _ => none

/-- The pixel `p` is the target of a set bit of the `n`-row sprite at `I`, drawn at column `vx`, row `vy` (R161, R162). -/
def Covered (s : State) (vx vy : Byte) (n : Nat) (p : Nat) : Prop :=
  ∃ row col : Nat, row < n ∧ col < 8 ∧ (s.readByte (s.i.toNat + row)).getLsbD (7 - col) = true ∧
    p = (vx.toNat + col) + 64 * (vy.toNat + row)

/-- The instruction word at `PC`: `MEM[PC] ++ MEM[PC+1]` (20_memory.md R55). -/
def wordAt (s : State) : Word := s.readByte s.pc.toNat ++ s.readByte (s.pc.toNat + 1)

/-- The next step is a `Step` of the instruction agent, and `rest` is what is to come after it: nothing is listed, or
`step_once` is next (R223), or `instr_tick` is next while Running (R220). -/
def InstructionTurn (s : State) (rest : List Input) : Prop :=
  (s.schedule = [] ∧ rest = []) ∨ s.schedule = .stepOnce :: rest ∨ (s.schedule = .instrTick :: rest ∧ s.run = true)

/-- A program has ended: not faulted, at a 1NNN that jumps to itself (R249, a convention of the spec; log 27). -/
def ProgramEnded (s : State) : Prop := s.fault = false ∧ s.fetch = some (0x1000 + s.pc)

/-- `σ` is a run of the machine whose agents act in the order of `sched`. -/
def Follows (sched : Nat → Input) (σ : Nat → State) : Prop :=
  ∀ n, step { σ n with schedule := [sched n] } = .next (σ (n + 1))

/-- Weak fairness (R243): in a run that stays Running and not faulted from some point on, the instruction agent and the
timer agent each act infinitely often. Nothing is said of the keypad agent or the host. -/
def WeaklyFair (sched : Nat → Input) (σ : Nat → State) : Prop :=
  (∃ n, ∀ m, n ≤ m → (σ m).run = true ∧ (σ m).fault = false) →
    (∀ n, ∃ m, n ≤ m ∧ sched m = .instrTick) ∧ (∀ n, ∃ m, n ≤ m ∧ sched m = .timerTick)

end Sys2Proof.Safety
end

