-- ==== Sys2Proof/Certificates/Slice0/Obligations.lean ====
section
/-! DEFINITION. The statements for the provers, from the numbered rules of spec/ and, where a rule is a decision the spec marks
as its own, from its sections (each docstring then names the decision). -/

open Sys2Proof Sys2Proof.Machine Sys2Proof.Safety

/-! Encoding (30_encoding.md). -/

/-- Decoding the word, and the bytes, of a well-formed instruction gives it back, every field at every value (R71, R74,
R75; decisions D22, D23 of the spec for the families 0x0, 0x5, 0x9). -/
def Obligations.DecodeOfEncode : Prop :=
  ∀ (i : Instr) (rest : List Byte), i.wellFormed = true →
    decodeWord (encode i) = .ok i ∧ decodeBytes (encodeBytes i ++ rest) = .ok (i, rest)

/-- A word that decodes is the word of a well-formed instruction: no bit of it is dropped (R71, R74; in the families 0x0, 0x5
and 0x9 that rests on decisions D22, D23 of the spec, log 20). -/
def Obligations.EncodeOfDecode : Prop :=
  ∀ (op : Word) (i : Instr), decodeWord op = .ok i → encode i = op ∧ i.wellFormed = true

/-- `Decode` (R74) and the opcode map (R75) select the same row, on every word (decisions D22, D23). -/
def Obligations.DecodeFollowsOpcodeMap : Prop :=
  ∀ op : Word,
    (match decodeWord op with
      | .ok i => some i.mnemonic
      | .error _ => none) = (selectedRow op).map (·.mnemonic)

/-- No word selects two rows, but for 00E0 and 00EE, which also match 0NNN (R75). -/
def Obligations.OpcodeRowsDisjoint : Prop :=
  ∀ (op : Word) (r r' : OpcodeRow), r ∈ opcodeMap → r' ∈ opcodeMap → r.selects op = true → r'.selects op = true →
    r ≠ r' → (op = 0x00E0 ∨ op = 0x00EE) ∧ (r.mnemonic = "0NNN" ∨ r'.mnemonic = "0NNN")

/-- The unrecognized space, exactly (R77, derived by the spec from R74). -/
def Obligations.UnrecognizedSpace : Prop :=
  ∀ op : Word,
    (decodeWord op = .error (.unrecognized op) ↔
      ((fieldT op = 0x5 ∨ fieldT op = 0x9) ∧ fieldN op ≠ 0) ∨
      (fieldT op = 0x8 ∧ fieldN op ∈ [0x8, 0x9, 0xA, 0xB, 0xC, 0xD, (0xF : Nibble)]) ∨
      (fieldT op = 0xE ∧ fieldNN op ∉ [0x9E, (0xA1 : Byte)]) ∨
      (fieldT op = 0xF ∧ fieldNN op ∉ [0x07, 0x0A, 0x15, 0x18, 0x1E, 0x29, 0x33, 0x55, (0x65 : Byte)])) ∧
    ((∃ i, decodeWord op = .ok i) ∨ decodeWord op = .error (.unrecognized op))

/-- Words written out in 95_test_vectors.md, as bytes high byte first (decision D1 of the spec, log 16): seven of section 2.10,
and 0x5001 of section 2.9, which is unrecognized by decision D23 (log 20). -/
def Obligations.SampleWordsDecode : Prop :=
  decodeBytes [0xD1, 0x2A] = .ok (.opDXYN 1 2 0xA, []) ∧
  decodeBytes [0x8A, 0xB4] = .ok (.op8XY4 0xA 0xB, []) ∧
  decodeBytes [0x2F, 0xFF] = .ok (.op2NNN 0xFFF, []) ∧
  decodeBytes [0x00, 0xEE] = .ok (.op00EE, []) ∧
  decodeBytes [0x1A, 0xBC] = .ok (.op1NNN 0xABC, []) ∧
  decodeBytes [0xEA, 0x9E] = .ok (.opEX9E 0xA, []) ∧
  decodeBytes [0xFA, 0x65] = .ok (.opFX65 0xA, []) ∧
  decodeBytes [0x50, 0x01] = .error (.unrecognized 0x5001)

/-! The step (30_encoding.md, 60_exceptions.md). -/

/-- When the bytes at `PC` decode to `i`, a step of the instruction agent is `exec i`, around which the step writes `OPC`,
lowers the event output and takes its own action off the schedule (R73, R220, R223). -/
def Obligations.StepRunsDecoded : Prop :=
  ∀ (s : State) (rest : List Input) (i : Instr), InstructionTurn s rest → s.fault = false → s.pc.toNat + 1 ≤ 4095 →
    decodeWord (wordAt s) = .ok i →
    step s = exec i { s with opc := wordAt s, event := none, schedule := rest }

/-- A word that matches no row is a logged no-op (R207). Which word stands at `PC` is decision D1 of the spec (log 16); the event
output as a field and the empty schedule as a `step_once` are the model's choices (log 8, log 4). -/
def Obligations.UnrecognizedIsLoggedNoOp : Prop :=
  ∀ (s : State) (rest : List Input) (e : Reject), InstructionTurn s rest → s.fault = false → s.pc.toNat + 1 ≤ 4095 →
    decodeWord (wordAt s) = .error e →
    step s = .next { s with
      opc := wordAt s, pc := s.pc + 2, event := some (.illegalOp (wordAt s) s.pc), schedule := rest }

/-- A `Step` with `PC + 1` past memory is a FetchFault; `OPC` is not written (R206, decision D3 of the spec). -/
def Obligations.FetchPastMemoryFaults : Prop :=
  ∀ (s : State) (rest : List Input), InstructionTurn s rest → s.fault = false → 4095 < s.pc.toNat + 1 →
    step s = .next { s with
      fault := true, cause := .fetchFault, run := false, event := none, schedule := rest }

/-- R31: every step that completes its fetch writes `OPC`, also when the instruction then faults, is unrecognized, or is an
FX0A that waits. -/
def Obligations.CompletedFetchWritesOpc : Prop :=
  ∀ (s t : State) (rest : List Input), InstructionTurn s rest → s.fault = false → s.pc.toNat + 1 ≤ 4095 →
    step s = .next t → t.opc = wordAt s

/-- `stop` clears `RUN` and keeps all other state; and while Stopped the strobes of the instruction and timer activities do
nothing, so no `Step` or `TimerTick` happens (R222, R220; that timers do not run while Stopped is decision D18 of the spec,
log 19; the schedule and the event are the model's, log 4, log 8). -/
def Obligations.StopHaltsActivities : Prop :=
  (∀ (s : State) (rest : List Input), s.schedule = .stop :: rest →
    step s = .next { s with run := false, schedule := rest, event := none }) ∧
  (∀ (s : State) (a : Input) (rest : List Input), s.run = false → a = .instrTick ∨ a = .timerTick →
    s.schedule = a :: rest → step s = .next { s with schedule := rest, event := none })

/-- While `FAULT = 1`, `Step`, `TimerTick`, `run` and `step_once` do nothing (R202, decision D15 of the spec). -/
def Obligations.FaultedCoreIsHalted : Prop :=
  ∀ (s : State) (a : Input) (rest : List Input), s.fault = true →
    a = .stepOnce ∨ a = .instrTick ∨ a = .timerTick ∨ a = .run → s.schedule = a :: rest →
    step s = .next { s with schedule := rest, event := none }

/-- Nothing but a successful load, of at most 3584 bytes, clears `FAULT`, and nothing but a load changes the cause of a faulted
core (R33, decision D15 of the spec, log 17; the failed load is decision D30). -/
def Obligations.FaultIsSticky : Prop :=
  ∀ s t : State, s.fault = true → step s = .next t →
    ((∀ table rom, s.nextInput = .resetLoad table rom → 3584 < rom.length) → t.fault = true) ∧
    ((∀ table rom, s.nextInput ≠ .resetLoad table rom) → s.nextInput ≠ .romUnreadable → t.cause = s.cause)

/-- Every step answers a next state: the core never gets stuck, a fatal fault included (R202). -/
def Obligations.StepAlwaysAnswersNext : Prop := ∀ s : State, ∃ t, step s = .next t

/-- Every step, of every agent, keeps the invariant. -/
def Obligations.StepKeepsInv : Prop := ∀ s t : State, Inv s → step s = .next t → Inv t

/-- The reset state meets the invariant. -/
def Obligations.ResetMeetsInv : Prop := Inv State.reset

/-- For every instruction in every state, `exec` answers a next state: the fault entry exactly when the table of R201 says
so, and otherwise `PC` as R24 says with everything outside the write set of R36 unchanged (derived by the spec from its
instruction rules; the faults rest on its decisions D3, D4, D9, D10, D15). -/
def Obligations.ExecMeetsWriteSets : Prop :=
  ∀ (i : Instr) (s : State), ∃ t, exec i s = .next t ∧
    match faultOf i s with
    | some c => FaultTaken c s t
    | none => t.pc = pcAfter i s ∧ Keeps (regsWritten i) (partsWritten i) (bytesStored i) s t

/-- The changed flag of every register an instruction writes is set (R37, decision D28 of the spec); an FX0A that waits
writes none. -/
def Obligations.WritesSetChangedFlags : Prop :=
  ∀ (i : Instr) (s t : State), exec i s = .next t → faultOf i s = none →
    (∀ x, i = .opFX0A x → ∃ k : KeyIx, s.key[k] = true) → ∀ r ∈ regsWritten i, t.chg[r] = true

/-- Only a key event or a load changes `KEY` (R29): no instruction, tick or other command does. -/
def Obligations.OnlyKeypadWritesKeys : Prop :=
  ∀ s t : State, step s = .next t → (∀ k down, s.nextInput ≠ .keyEvent k down) →
    (∀ table rom, s.nextInput ≠ .resetLoad table rom) → s.nextInput ≠ .romUnreadable → t.key = s.key

/-! The other agents (60_exceptions.md, 70_reset_and_hazards.md). -/

/-- Both timers in one step, each decremented if it is not zero; nothing else (R215). That this happens only while Running and not
faulted rests on decisions D18 (log 19) and D15 (log 17) of the spec. -/
def Obligations.TimerTickDecrements : Prop :=
  ∀ (s : State) (rest : List Input), s.schedule = .timerTick :: rest →
    ∃ t, step s = .next t ∧
      t.dt.toNat = (if s.run = true ∧ s.fault = false then s.dt.toNat - 1 else s.dt.toNat) ∧
      t.st.toNat = (if s.run = true ∧ s.fault = false then s.st.toNat - 1 else s.st.toNat) ∧
      t = { s with dt := t.dt, st := t.st, schedule := rest, event := none }

/-- `k` ticks of a running core take `k` off each timer, down to zero and no further (95_test_vectors.md S8). -/
def Obligations.TimersDecayToZero : Prop :=
  ∀ (k : Nat) (s : State), s.schedule = List.replicate k .timerTick → s.run = true → s.fault = false →
    ∃ t, core.run k s = .next t ∧ t.dt.toNat = s.dt.toNat - k ∧ t.st.toNat = s.st.toNat - k

/-- A key event sets that key and nothing else, whatever `RUN` and `FAULT` are (R218, decision D19 of the spec). -/
def Obligations.KeyEventSetsKey : Prop :=
  ∀ (s : State) (k : KeyIx) (down : Bool) (rest : List Input), s.schedule = .keyEvent k down :: rest →
    ∃ t, step s = .next t ∧ (∀ j : KeyIx, t.key[j] = if j = k then down else s.key[j]) ∧
      t = { s with key := t.key, schedule := rest, event := none }

/-- `run` sets `RUN` of a core that is not faulted and changes nothing else (R221, decision D15 of the spec). -/
def Obligations.RunCommandStarts : Prop :=
  ∀ (s : State) (rest : List Input), s.schedule = .run :: rest →
    step s = .next { s with run := s.run || !s.fault, schedule := rest, event := none }

/-- The host's read of the register file clears every changed flag and nothing else (R37, decision D28 of the spec). -/
def Obligations.RegisterReadClearsChanged : Prop :=
  ∀ (s : State) (rest : List Input), s.schedule = .readRegisters :: rest →
    ∃ t, step s = .next t ∧ (∀ r : RegIx, t.chg[r] = false) ∧
      t = { s with chg := t.chg, schedule := rest, event := none }

/-- A load of at most 3584 bytes puts the ROM at 0x200, the 80 bytes of the parameter `FONT` at 0, whatever they are (R7), zero
elsewhere, and every register at its reset value (R231; decisions D13, D14, D15, D20, D30 of the spec). The draws made are the
model's own and stay (log 6). -/
def Obligations.LoadPlacesRom : Prop :=
  ∀ (s : State) (table : FontTable) (rom : List Byte) (rest : List Input), s.schedule = .resetLoad table rom :: rest →
    rom.length ≤ 3584 →
    ∃ t, step s = .next t ∧
      (∀ k (h : k < rom.length), t.readByte (0x200 + k) = rom[k]) ∧
      (∀ a (h : a < 80), t.readByte a = table[a]) ∧
      (∀ a, 80 ≤ a → a < 0x200 ∨ 0x200 + rom.length ≤ a → t.readByte a = 0) ∧
      t = { State.reset with mem := t.mem, draws := s.draws, schedule := rest }

/-- A longer ROM, or an unreadable one, leaves the core faulted with cause code 6 and Stopped (R232, decision D30 of the
spec); nothing is said of any other piece of state. -/
def Obligations.FailedLoadHaltsCore : Prop :=
  ∀ (s : State) (a : Input) (rest : List Input), s.schedule = a :: rest →
    (∃ table rom, a = .resetLoad table rom ∧ 3584 < rom.length) ∨ a = .romUnreadable →
    ∃ t, step s = .next t ∧ t.fault = true ∧ t.cause.code = 6 ∧ t.run = false ∧ t.schedule = rest

/-- The reset values of the table of R40: `PC` and the places of the font by the source, `SP` by inference, the zeros by
decision D13 of the spec, Stopped by D14, no fault by D15, the flags by D28, the default font by D20; and the font bytes of a core
with any other `FONT` (R7) (log 1, log 2, log 3). -/
def Obligations.ResetValues : Prop :=
  State.reset.pc = 0x200 ∧ State.reset.sp.val = 0 ∧ State.reset.i = 0 ∧ State.reset.dt = 0 ∧ State.reset.st = 0 ∧
  State.reset.opc = 0 ∧ State.reset.run = false ∧ State.reset.fault = false ∧ State.reset.cause.code = 0 ∧
  (∀ r : RegIx, State.reset.v[r] = 0 ∧ State.reset.chg[r] = false) ∧ (∀ k : Fin 16, State.reset.stack[k] = 0) ∧
  (∀ k : KeyIx, State.reset.key[k] = false) ∧ (∀ p : Fin 2048, State.reset.disp[p] = false) ∧
  (∀ a, a < 80 → State.reset.readByte a = defaultFont.getD a 0) ∧ (∀ a, 80 ≤ a → State.reset.readByte a = 0) ∧
  (∀ (table : FontTable) a (h : a < 80), (State.resetWith table).readByte a = table[a]) ∧
  (∀ (table : FontTable) a, 80 ≤ a → (State.resetWith table).readByte a = 0)

/-! Control flow (40_control_flow.md). -/

/-- 0NNN advances `PC` and changes nothing else; it raises no event (R100, decision D24 of the spec). -/
def Obligations.LegacyCallIsNoOp : Prop :=
  ∀ (nnn : Addr) (s : State), ∃ t, exec (.op0NNN nnn) s = .next t ∧ t.pc = s.pc + 2 ∧ Keeps [] [] 0 s t

/-- 1NNN (R102); that no instruction can be fetched from 0xFFF is decision D3 of the spec (log 13). -/
def Obligations.JumpGoesToTarget : Prop :=
  ∀ (nnn : Addr) (s : State), ∃ t, exec (.op1NNN nnn) s = .next t ∧ t.pc.toNat = nnn.toNat ∧
    (nnn.toNat = 0xFFF → t.fetch = none) ∧ Keeps [] [] 0 s t

/-- BNNN adds `V[0]`, whatever the `x` nibble of `nnn` (R108); that no instruction can be fetched from a sum of 0xFFF or more is
decision D3 of the spec (log 13). -/
def Obligations.OffsetJumpAddsV0 : Prop :=
  ∀ (nnn : Addr) (s : State), ∃ t, exec (.opBNNN nnn) s = .next t ∧
    t.pc.toNat = nnn.toNat + (s.v[(0 : RegIx)]).toNat ∧
    (0xFFF ≤ nnn.toNat + (s.v[(0 : RegIx)]).toNat → t.fetch = none) ∧ Keeps [] [] 0 s t

/-- 2NNN with fewer than 16 addresses held pushes its own address and goes to its target (R103, decision D6 of the
spec). -/
def Obligations.CallPushesOwnAddress : Prop :=
  ∀ (nnn : Addr) (s : State), s.sp.val < 16 → ∃ t, exec (.op2NNN nnn) s = .next t ∧
    t.pc.toNat = nnn.toNat ∧ t.sp.val = s.sp.val + 1 ∧
    (∀ k : Fin 16, t.stack[k] = if k.val = s.sp.val then s.pc else s.stack[k]) ∧ Keeps [] [.stack, .sp] 0 s t

/-- 00EE with an address held pops it and goes to the instruction after the call; the slot keeps its value (R101, decisions
D6, D36 of the spec). -/
def Obligations.ReturnGoesPastCall : Prop :=
  ∀ s : State, 0 < s.sp.val → ∃ t, exec .op00EE s = .next t ∧
    t.pc = s.stack[s.sp.val - 1]'(by omega) + 2 ∧ t.sp.val = s.sp.val - 1 ∧ Keeps [] [.sp] 0 s t

/-- A call with 16 addresses held and a return with none are fatal faults and change nothing else (R203, R204; what the
entry does is decision D15 of the spec). -/
def Obligations.StackLimitsFault : Prop :=
  (∀ (nnn : Addr) (s : State), s.sp.val = 16 → ∃ t, exec (.op2NNN nnn) s = .next t ∧ FaultTaken .stackOverflow s t) ∧
  (∀ s : State, s.sp.val = 0 → ∃ t, exec .op00EE s = .next t ∧ FaultTaken .stackUnderflow s t)

/-- A return, from wherever the subroutine got to, undoes a call: `PC` is after the call and `SP` as before (R101, R103;
decision D6). -/
def Obligations.ReturnUndoesCall : Prop :=
  ∀ (nnn : Addr) (s : State) (p : Word), s.sp.val < 16 → ∃ t u, exec (.op2NNN nnn) s = .next t ∧
    exec .op00EE { t with pc := p } = .next u ∧ u.pc = s.pc + 2 ∧ u.sp = s.sp

/-- R104, R105: 3XNN and 4XNN. -/
def Obligations.SkipOnImmediate : Prop :=
  ∀ (x : RegIx) (nn : Byte) (s : State),
    (∃ t, exec (.op3XNN x nn) s = .next t ∧
      t.pc = (if s.v[x] = nn then s.pc + 4 else s.pc + 2) ∧ Keeps [] [] 0 s t) ∧
    (∃ t, exec (.op4XNN x nn) s = .next t ∧
      t.pc = (if s.v[x] = nn then s.pc + 2 else s.pc + 4) ∧ Keeps [] [] 0 s t)

/-- R106, R107: 5XY0 and 9XY0. -/
def Obligations.SkipOnRegister : Prop :=
  ∀ (x y : RegIx) (s : State),
    (∃ t, exec (.op5XY0 x y) s = .next t ∧
      t.pc = (if s.v[x] = s.v[y] then s.pc + 4 else s.pc + 2) ∧ Keeps [] [] 0 s t) ∧
    (∃ t, exec (.op9XY0 x y) s = .next t ∧
      t.pc = (if s.v[x] = s.v[y] then s.pc + 2 else s.pc + 4) ∧ Keeps [] [] 0 s t)

/-! Load, arithmetic, logic, shift, random (41_alu.md). -/

/-- R120, R121: 6XNN and 7XNN; VF is written only as `V[x]`. -/
def Obligations.LoadAndAddImmediate : Prop :=
  ∀ (x : RegIx) (nn : Byte) (s : State),
    (∃ t, exec (.op6XNN x nn) s = .next t ∧ t.v[x] = nn ∧ t.pc = s.pc + 2 ∧ Keeps [x] [] 0 s t) ∧
    (∃ t, exec (.op7XNN x nn) s = .next t ∧ (t.v[x]).toNat = ((s.v[x]).toNat + nn.toNat) % 256 ∧
      t.pc = s.pc + 2 ∧ Keeps [x] [] 0 s t)

/-- R122 to R125: 8XY0 to 8XY3, bit by bit; VF is written only as `V[x]`. -/
def Obligations.MoveAndLogic : Prop :=
  ∀ (x y : RegIx) (s : State),
    (∃ t, exec (.op8XY0 x y) s = .next t ∧ t.v[x] = s.v[y] ∧ t.pc = s.pc + 2 ∧ Keeps [x] [] 0 s t) ∧
    (∃ t, exec (.op8XY1 x y) s = .next t ∧
      (∀ k, (t.v[x]).getLsbD k = ((s.v[x]).getLsbD k || (s.v[y]).getLsbD k)) ∧ t.pc = s.pc + 2 ∧ Keeps [x] [] 0 s t) ∧
    (∃ t, exec (.op8XY2 x y) s = .next t ∧
      (∀ k, (t.v[x]).getLsbD k = ((s.v[x]).getLsbD k && (s.v[y]).getLsbD k)) ∧ t.pc = s.pc + 2 ∧ Keeps [x] [] 0 s t) ∧
    (∃ t, exec (.op8XY3 x y) s = .next t ∧
      (∀ k, (t.v[x]).getLsbD k = ((s.v[x]).getLsbD k ^^ (s.v[y]).getLsbD k)) ∧ t.pc = s.pc + 2 ∧ Keeps [x] [] 0 s t)

/-- 8XY4: the carry in VF for every `x`, the sum in `V[x]` unless `x` is F, where the flag wins (R126; the order of the two
writes is decision D7 of the spec). -/
def Obligations.AddWithCarryOut : Prop :=
  ∀ (x y : RegIx) (s : State), ∃ t, exec (.op8XY4 x y) s = .next t ∧
    (x ≠ 15 → (t.v[x]).toNat = ((s.v[x]).toNat + (s.v[y]).toNat) % 256) ∧
    t.v[(15 : RegIx)] = (if (s.v[x]).toNat + (s.v[y]).toNat > 255 then 1 else 0) ∧
    t.pc = s.pc + 2 ∧ Keeps [x, 15] [] 0 s t

/-- 8XY5 and 8XY7: the strict no-borrow flag in VF for every `x`, the difference in `V[x]` unless `x` is F, where the flag
wins (R127, R129; the order of the two writes is decision D7 of the spec). -/
def Obligations.SubtractBothWays : Prop :=
  ∀ (x y : RegIx) (s : State),
    (∃ t, exec (.op8XY5 x y) s = .next t ∧
      (x ≠ 15 → (t.v[x]).toNat = ((s.v[x]).toNat + 256 - (s.v[y]).toNat) % 256) ∧
      t.v[(15 : RegIx)] = (if (s.v[x]).toNat > (s.v[y]).toNat then 1 else 0) ∧
      t.pc = s.pc + 2 ∧ Keeps [x, 15] [] 0 s t) ∧
    (∃ t, exec (.op8XY7 x y) s = .next t ∧
      (x ≠ 15 → (t.v[x]).toNat = ((s.v[y]).toNat + 256 - (s.v[x]).toNat) % 256) ∧
      t.v[(15 : RegIx)] = (if (s.v[y]).toNat > (s.v[x]).toNat then 1 else 0) ∧
      t.pc = s.pc + 2 ∧ Keeps [x, 15] [] 0 s t)

/-- 8XY6 and 8XYE shift `V[x]` in place, whatever `y`; VF holds the bit shifted out for every `x` (R128, R130; the order of
the two writes is decision D7 of the spec). -/
def Obligations.ShiftsByOne : Prop :=
  ∀ (x y : RegIx) (s : State),
    (∃ t, exec (.op8XY6 x y) s = .next t ∧
      (x ≠ 15 → (t.v[x]).toNat = (s.v[x]).toNat / 2) ∧
      t.v[(15 : RegIx)] = (if (s.v[x]).toNat % 2 = 1 then 1 else 0) ∧ t.pc = s.pc + 2 ∧ Keeps [x, 15] [] 0 s t) ∧
    (∃ t, exec (.op8XYE x y) s = .next t ∧
      (x ≠ 15 → (t.v[x]).toNat = 2 * (s.v[x]).toNat % 256) ∧
      t.v[(15 : RegIx)] = (if (s.v[x]).toNat ≥ 128 then 1 else 0) ∧ t.pc = s.pc + 2 ∧ Keeps [x, 15] [] 0 s t)

/-- CXNN: the byte drawn AND `nn`, so no bit outside `nn`, whatever the free value `Config.rnd` is (R131, R9, decision D12 of the
spec); one draw is counted, so that the next CXNN draws afresh (log 6). -/
def Obligations.RandomIsMasked : Prop :=
  ∀ (x : RegIx) (nn : Byte) (s : State), ∃ t, exec (.opCXNN x nn) s = .next t ∧
    t.v[x] = Config.rnd s.draws &&& nn ∧ t.v[x] &&& ~~~nn = 0 ∧ (nn = 0 → t.v[x] = 0) ∧
    t.draws = s.draws + 1 ∧ t.pc = s.pc + 2 ∧ Keeps [x] [.draws] 0 s t

/-! Index register and memory (42_index_memory.md). -/

/-- R140, R142: ANNN and FX29. -/
def Obligations.LoadIndexAndGlyph : Prop :=
  (∀ (nnn : Addr) (s : State), ∃ t, exec (.opANNN nnn) s = .next t ∧ t.i.toNat = nnn.toNat ∧ t.pc = s.pc + 2 ∧
    Keeps [] [.i] 0 s t) ∧
  (∀ (x : RegIx) (s : State), ∃ t, exec (.opFX29 x) s = .next t ∧ t.i.toNat = 5 * ((s.v[x]).toNat % 16) ∧
    t.pc = s.pc + 2 ∧ Keeps [] [.i] 0 s t)

/-- After a load with any `FONT`, FX29 points `I` at the five bytes of the glyph of the low nibble, top row first, as long as memory
is as the load left it (R7, R52, R142; decision D20 of the spec, log 1). -/
def Obligations.GlyphIsRowOfFont : Prop :=
  ∀ (s t u : State) (table : FontTable) (rom : List Byte) (rest : List Input) (x : RegIx),
    s.schedule = .resetLoad table rom :: rest → rom.length ≤ 3584 → step s = .next t → u.mem = t.mem →
    ∃ w, exec (.opFX29 x) u = .next w ∧
      ∀ r : Fin 5, w.readByte (w.i.toNat + r.val) = table[5 * ((u.v[x]).toNat % 16) + r.val]'(by omega)

/-- FX1E adds modulo 65536 and writes no flag (R141, decision D5 of the spec). -/
def Obligations.AddToIndexWraps : Prop :=
  ∀ (x : RegIx) (s : State), ∃ t, exec (.opFX1E x) s = .next t ∧
    t.i.toNat = (s.i.toNat + (s.v[x]).toNat) % 65536 ∧ t.pc = s.pc + 2 ∧ Keeps [] [.i] 0 s t

/-- FX33 stores hundreds, tens and ones at `I`, `I + 1`, `I + 2` when they exist, and nothing else (R143; the bound is
decision D4 of the spec). -/
def Obligations.BcdStoresDigits : Prop :=
  ∀ (x : RegIx) (s : State), s.mem.wf = true → s.i.toNat + 2 ≤ 4095 → ∃ t, exec (.opFX33 x) s = .next t ∧
    (t.readByte s.i.toNat).toNat = (s.v[x]).toNat / 100 ∧
    (t.readByte (s.i.toNat + 1)).toNat = (s.v[x]).toNat / 10 % 10 ∧
    (t.readByte (s.i.toNat + 2)).toNat = (s.v[x]).toNat % 10 ∧ t.pc = s.pc + 2 ∧ Keeps [] [] 3 s t

/-- FX55 stores `V[0..x]` from `I` up when the last byte exists; `I` and every other byte are unchanged (R144; the bound is
decision D4 of the spec). -/
def Obligations.StoreRegisterBlock : Prop :=
  ∀ (x : RegIx) (s : State), s.mem.wf = true → s.i.toNat + x.val ≤ 4095 → ∃ t, exec (.opFX55 x) s = .next t ∧
    (∀ k : RegIx, k ≤ x → t.readByte (s.i.toNat + k.val) = s.v[k]) ∧ t.pc = s.pc + 2 ∧ Keeps [] [] (x.val + 1) s t

/-- FX65 loads `V[0..x]` from `I` up when the last byte exists; `I`, memory and every register above `x` are unchanged (R145;
the bound is decision D4 of the spec). -/
def Obligations.LoadRegisterBlock : Prop :=
  ∀ (x : RegIx) (s : State), s.i.toNat + x.val ≤ 4095 → ∃ t, exec (.opFX65 x) s = .next t ∧
    (∀ k : RegIx, k ≤ x → t.v[k] = s.readByte (s.i.toNat + k.val)) ∧
    (∀ k : RegIx, x < k → t.v[k] = s.v[k] ∧ t.chg[k] = s.chg[k]) ∧ t.pc = s.pc + 2 ∧
    Keeps (regsWritten (.opFX65 x)) [] 0 s t

/-- Each of the four memory instructions whose highest address is above 4095 is a MemFault and changes no byte, register or
pixel (R205; decisions D4, D9 of the spec). -/
def Obligations.MemoryBoundsFault : Prop :=
  (∀ (x : RegIx) (s : State), 4095 < s.i.toNat + 2 → ∃ t, exec (.opFX33 x) s = .next t ∧ FaultTaken .memFault s t) ∧
  (∀ (x : RegIx) (s : State), 4095 < s.i.toNat + x.val →
    (∃ t, exec (.opFX55 x) s = .next t ∧ FaultTaken .memFault s t) ∧
    (∃ t, exec (.opFX65 x) s = .next t ∧ FaultTaken .memFault s t)) ∧
  (∀ (x y : RegIx) (n : Nibble) (s : State), 0 < n.toNat → 4095 < s.i.toNat + n.toNat - 1 →
    ∃ t, exec (.opDXYN x y n) s = .next t ∧ FaultTaken .memFault s t)

/-- FX55 and then FX65, into any registers, with memory and `I` as FX55 left them, gives `V[0..x]` back (95_test_vectors.md
S6; R144, R145). -/
def Obligations.StoreLoadRoundTrip : Prop :=
  ∀ (x : RegIx) (s t u : State), s.mem.wf = true → s.i.toNat + x.val ≤ 4095 → exec (.opFX55 x) s = .next t →
    u.mem = t.mem → u.i = t.i → ∃ w, exec (.opFX65 x) u = .next w ∧ (∀ k : RegIx, k ≤ x → w.v[k] = s.v[k]) ∧ w.i = s.i

/-- A store is seen by the very next fetch, high byte first: FX55 of `V[0]`, `V[1]` onto the next instruction (R64, R55;
decisions D21, D1 of the spec). -/
def Obligations.StoreSeenByNextFetch : Prop :=
  ∀ s : State, s.mem.wf = true → s.i = s.pc + 2 → s.i.toNat + 1 ≤ 4095 → ∃ t, exec (.opFX55 1) s = .next t ∧
    ∃ op : Word, t.fetch = some op ∧ op.toNat = 256 * (s.v[(0 : RegIx)]).toNat + (s.v[(1 : RegIx)]).toNat

/-! Display (43_display.md). -/

/-- 00E0 puts every pixel out and raises `redraw` (R160; the event is decision D27 of the spec). -/
def Obligations.ClearDisplay : Prop :=
  ∀ s : State, ∃ t, exec .op00E0 s = .next t ∧ (∀ p : Fin 2048, t.disp[p] = false) ∧ t.event = some .redraw ∧
    t.pc = s.pc + 2 ∧ Keeps [] [.disp, .event] 0 s t

/-- DXYN inverts exactly the pixels its sprite covers and puts in VF whether one of them was lit (R162, R163; decisions D8, D9,
D27 of the spec). -/
def Obligations.DrawTogglesCoveredPixels : Prop :=
  ∀ (x y : RegIx) (n : Nibble) (s : State), ¬ (0 < n.toNat ∧ 4095 < s.i.toNat + n.toNat - 1) →
    ∃ t, exec (.opDXYN x y n) s = .next t ∧
      (∀ p : Fin 2048, (Covered s s.v[x] s.v[y] n.toNat p.val → t.disp[p] = !s.disp[p]) ∧
        (¬ Covered s s.v[x] s.v[y] n.toNat p.val → t.disp[p] = s.disp[p])) ∧
      (t.v[(15 : RegIx)] = 1 ↔ ∃ p : Fin 2048, Covered s s.v[x] s.v[y] n.toNat p.val ∧ s.disp[p] = true) ∧
      (t.v[(15 : RegIx)] = 0 ∨ t.v[(15 : RegIx)] = 1) ∧ t.event = some .redraw ∧ t.pc = s.pc + 2 ∧
      Keeps [15] [.disp, .event] 0 s t

/-- The same draw twice restores the display; the second VF is 1 exactly when the first draw lit a pixel (R164, derived by the
spec from R162). -/
def Obligations.DrawTwiceRestores : Prop :=
  ∀ (x y : RegIx) (n : Nibble) (s : State), x ≠ 15 → y ≠ 15 → ¬ (0 < n.toNat ∧ 4095 < s.i.toNat + n.toNat - 1) →
    ∃ t u, exec (.opDXYN x y n) s = .next t ∧ exec (.opDXYN x y n) t = .next u ∧ u.disp = s.disp ∧
      (u.v[(15 : RegIx)] = 1 ↔ ∃ p : Fin 2048, Covered s s.v[x] s.v[y] n.toNat p.val ∧ s.disp[p] = false)

/-! Keypad and timers (44_keypad_timer.md). -/

/-- EX9E and EXA1 with `V[x]` a key number test that key's level (R180, R181; the bound is decision D10 of the spec). -/
def Obligations.SkipOnKey : Prop :=
  ∀ (x : RegIx) (k : KeyIx) (s : State), (s.v[x]).toNat = k.val →
    (∃ t, exec (.opEX9E x) s = .next t ∧ t.pc = (if s.key[k] = true then s.pc + 4 else s.pc + 2) ∧ Keeps [] [] 0 s t) ∧
    (∃ t, exec (.opEXA1 x) s = .next t ∧ t.pc = (if s.key[k] = true then s.pc + 2 else s.pc + 4) ∧ Keeps [] [] 0 s t)

/-- EX9E and EXA1 with `V[x]` above 15 are a KeyIndexFault and change nothing else (R208, decision D10 of the spec). -/
def Obligations.NoSuchKeyFaults : Prop :=
  ∀ (x : RegIx) (s : State), 15 < (s.v[x]).toNat →
    (∃ t, exec (.opEX9E x) s = .next t ∧ FaultTaken .keyIndexFault s t) ∧
    (∃ t, exec (.opEXA1 x) s = .next t ∧ FaultTaken .keyIndexFault s t)

/-- FX0A with a key pressed stores the lowest one; with none it changes nothing, so that it is fetched again (R182, decision
D11 of the spec). -/
def Obligations.WaitForKey : Prop :=
  (∀ (x : RegIx) (k : KeyIx) (s : State), s.key[k] = true → (∀ j : KeyIx, j < k → s.key[j] = false) →
    ∃ t, exec (.opFX0A x) s = .next t ∧ (t.v[x]).toNat = k.val ∧ t.pc = s.pc + 2 ∧ Keeps [x] [] 0 s t) ∧
  (∀ (x : RegIx) (s : State), (∀ k : KeyIx, s.key[k] = false) → exec (.opFX0A x) s = .next s)

/-- R183, R184, R185: FX07, FX15 and FX18, with the sound output of FX18. -/
def Obligations.TimerRegisters : Prop :=
  ∀ (x : RegIx) (s : State),
    (∃ t, exec (.opFX07 x) s = .next t ∧ t.v[x] = s.dt ∧ t.pc = s.pc + 2 ∧ Keeps [x] [] 0 s t) ∧
    (∃ t, exec (.opFX15 x) s = .next t ∧ t.dt = s.v[x] ∧ t.pc = s.pc + 2 ∧ Keeps [] [.dt] 0 s t) ∧
    (∃ t, exec (.opFX18 x) s = .next t ∧ t.st = s.v[x] ∧ (t.soundActive = true ↔ 0 < (s.v[x]).toNat) ∧
      t.pc = s.pc + 2 ∧ Keeps [] [.st] 0 s t)

/-! Whole runs (70_reset_and_hazards.md). -/

/-- From the end of a program a further `Step` changes nothing but `OPC` (R249, decision D34 of the spec, log 27). -/
def Obligations.EndedProgramStays : Prop :=
  ∀ (s : State) (rest : List Input), InstructionTurn s rest → ProgramEnded s →
    step s = .next { s with opc := 0x1000 + s.pc, event := none, schedule := rest }

/-- In a weakly fair run that stays Running and not faulted and in which no step raises `DT`, `DT` reaches zero (R243,
decision D17 of the spec; R215). -/
def Obligations.FairRunEmptiesDelayTimer : Prop :=
  ∀ (sched : Nat → Input) (σ : Nat → State), Follows sched σ → WeaklyFair sched σ →
    (∀ n, (σ n).run = true ∧ (σ n).fault = false) → (∀ n, (σ (n + 1)).dt.toNat ≤ (σ n).dt.toNat) →
    ∃ n, (σ n).dt = 0
end

