-- ==== Sys2Proof/Laws/Decode.lean ====
section
/-! SUPPORT. The bits of an encoded word, its fields, and a word put together again from its fields. -/

namespace Sys2Proof

/-! The bits of each format. -/

theorem getLsbD_encodeAddr (t : Nibble) (nnn : Addr) (k : Nat) :
    (encodeAddr t nnn).getLsbD k = if k < 12 then nnn.getLsbD k else t.getLsbD (k - 12) :=
  BitVec.getLsbD_append

theorem getLsbD_encodeXnn (t : Nibble) (x : RegIx) (nn : Byte) (k : Nat) :
    (encodeXnn t x nn).getLsbD k =
      if k < 12 then (if k < 8 then nn.getLsbD k else (BitVec.ofFin x : Nibble).getLsbD (k - 8))
      else t.getLsbD (k - 12) :=
  (BitVec.getLsbD_append (x := t)).trans (if_congr Iff.rfl BitVec.getLsbD_append rfl)

theorem getLsbD_encodeXyn (t : Nibble) (x y : RegIx) (n : Nibble) (k : Nat) :
    (encodeXyn t x y n).getLsbD k =
      if k < 12 then
        (if k < 8 then (if k < 4 then n.getLsbD k else (BitVec.ofFin y : Nibble).getLsbD (k - 4))
         else (BitVec.ofFin x : Nibble).getLsbD (k - 8))
      else t.getLsbD (k - 12) :=
  (BitVec.getLsbD_append (x := t)).trans (if_congr Iff.rfl
    (BitVec.getLsbD_append.trans (if_congr Iff.rfl BitVec.getLsbD_append rfl)) rfl)

theorem getLsbD_wordOfBytes (hi lo : Byte) (k : Nat) :
    (wordOfBytes hi lo).getLsbD k = if k < 8 then lo.getLsbD k else hi.getLsbD (k - 8) :=
  BitVec.getLsbD_append

/-- A slice is known by its bits. -/
theorem extract_eq {lo len : Nat} {op : Word} {v : BitVec len}
    (h : ∀ k, k < len → op.getLsbD (lo + k) = v.getLsbD k) : op.extractLsb' lo len = v :=
  BitVec.eq_of_getLsbD_eq fun k hk => by simp [hk, h k hk]

/-! The fields of each format. -/

@[simp] theorem fieldT_encodeAddr (t : Nibble) (nnn : Addr) : fieldT (encodeAddr t nnn) = t :=
  extract_eq fun k _ => by simp [getLsbD_encodeAddr]

@[simp] theorem fieldNNN_encodeAddr (t : Nibble) (nnn : Addr) : fieldNNN (encodeAddr t nnn) = nnn :=
  extract_eq fun k hk => by simp [getLsbD_encodeAddr, hk]

@[simp] theorem fieldT_encodeXnn (t : Nibble) (x : RegIx) (nn : Byte) : fieldT (encodeXnn t x nn) = t :=
  extract_eq fun k _ => by simp [getLsbD_encodeXnn]

@[simp] theorem fieldX_encodeXnn (t : Nibble) (x : RegIx) (nn : Byte) : fieldX (encodeXnn t x nn) = x :=
  congrArg BitVec.toFin (extract_eq (v := (BitVec.ofFin x : Nibble)) fun k hk => by
    rw [getLsbD_encodeXnn, if_pos (by omega), if_neg (by omega), Nat.add_sub_cancel_left])

@[simp] theorem fieldNN_encodeXnn (t : Nibble) (x : RegIx) (nn : Byte) : fieldNN (encodeXnn t x nn) = nn :=
  extract_eq fun k hk => by rw [getLsbD_encodeXnn, Nat.zero_add, if_pos (by omega), if_pos hk]

@[simp] theorem fieldT_encodeXyn (t : Nibble) (x y : RegIx) (n : Nibble) : fieldT (encodeXyn t x y n) = t :=
  extract_eq fun k _ => by simp [getLsbD_encodeXyn]

@[simp] theorem fieldX_encodeXyn (t : Nibble) (x y : RegIx) (n : Nibble) : fieldX (encodeXyn t x y n) = x :=
  congrArg BitVec.toFin (extract_eq (v := (BitVec.ofFin x : Nibble)) fun k hk => by
    rw [getLsbD_encodeXyn, if_pos (by omega), if_neg (by omega), Nat.add_sub_cancel_left])

@[simp] theorem fieldY_encodeXyn (t : Nibble) (x y : RegIx) (n : Nibble) : fieldY (encodeXyn t x y n) = y :=
  congrArg BitVec.toFin (extract_eq (v := (BitVec.ofFin y : Nibble)) fun k hk => by
    rw [getLsbD_encodeXyn, if_pos (by omega), if_pos (by omega), if_neg (by omega), Nat.add_sub_cancel_left])

@[simp] theorem fieldN_encodeXyn (t : Nibble) (x y : RegIx) (n : Nibble) : fieldN (encodeXyn t x y n) = n :=
  extract_eq fun k hk => by
    rw [getLsbD_encodeXyn, Nat.zero_add, if_pos (by omega), if_pos (by omega), if_pos hk]

/-! A word is what its fields encode. -/

/-- The bits of a slice. -/
theorem getLsbD_extract {lo len : Nat} {op : Word} {k : Nat} (h : k < len) :
    (op.extractLsb' lo len).getLsbD k = op.getLsbD (lo + k) := by
  simp [h]

theorem encodeAddr_fields (op : Word) : encodeAddr (fieldT op) (fieldNNN op) = op :=
  BitVec.eq_of_getLsbD_eq fun k hk => by
    rw [getLsbD_encodeAddr]
    split
    · rw [fieldNNN, getLsbD_extract (by omega), Nat.zero_add]
    · rw [fieldT, getLsbD_extract (by omega), Nat.add_sub_cancel' (by omega)]

theorem encodeXnn_fields (op : Word) : encodeXnn (fieldT op) (fieldX op) (fieldNN op) = op :=
  BitVec.eq_of_getLsbD_eq fun k hk => by
    rw [getLsbD_encodeXnn]
    split
    · split
      · rw [fieldNN, getLsbD_extract (by omega), Nat.zero_add]
      · exact (getLsbD_extract (lo := 8) (len := 4) (by omega)).trans (by rw [Nat.add_sub_cancel' (by omega)])
    · rw [fieldT, getLsbD_extract (by omega), Nat.add_sub_cancel' (by omega)]

theorem encodeXyn_fields (op : Word) : encodeXyn (fieldT op) (fieldX op) (fieldY op) (fieldN op) = op :=
  BitVec.eq_of_getLsbD_eq fun k hk => by
    rw [getLsbD_encodeXyn]
    split
    · split
      · split
        · rw [fieldN, getLsbD_extract (by omega), Nat.zero_add]
        · exact (getLsbD_extract (lo := 4) (len := 4) (by omega)).trans (by rw [Nat.add_sub_cancel' (by omega)])
      · exact (getLsbD_extract (lo := 8) (len := 4) (by omega)).trans (by rw [Nat.add_sub_cancel' (by omega)])
    · rw [fieldT, getLsbD_extract (by omega), Nat.add_sub_cancel' (by omega)]

/-! A word of known fields, whole. -/

theorem nibble_eq_of_toNat {t : Nibble} {k : Nat} (h : t.toNat = k) : t = BitVec.ofNat 4 k := by
  rw [← h]; simp

theorem byte_eq_of_toNat {b : Byte} {k : Nat} (h : b.toNat = k) : b = BitVec.ofNat 8 k := by
  rw [← h]; simp

theorem encodeAddr_of_fields {op : Word} {t : Nibble} (h : fieldT op = t) : encodeAddr t (fieldNNN op) = op :=
  h ▸ encodeAddr_fields op

theorem encodeXnn_of_fields {op : Word} {t : Nibble} {nn : Byte} (h : fieldT op = t) (h' : fieldNN op = nn) :
    encodeXnn t (fieldX op) nn = op :=
  h ▸ h' ▸ encodeXnn_fields op

theorem encodeXyn_of_fields {op : Word} {t n : Nibble} (h : fieldT op = t) (h' : fieldN op = n) :
    encodeXyn t (fieldX op) (fieldY op) n = op :=
  h ▸ h' ▸ encodeXyn_fields op

/-- The low 12 bits are `x ++ nn` (R71). -/
theorem encodeAddr_eq_encodeXnn (t : Nibble) (op : Word) :
    encodeAddr t (fieldNNN op) = encodeXnn t (fieldX op) (fieldNN op) :=
  BitVec.eq_of_getLsbD_eq fun k hk => by
    rw [getLsbD_encodeAddr, getLsbD_encodeXnn]
    split
    · rw [fieldNNN, getLsbD_extract (by omega), Nat.zero_add]
      split
      · rw [fieldNN, getLsbD_extract (by omega), Nat.zero_add]
      · exact ((getLsbD_extract (lo := 8) (len := 4) (by omega)).trans
          (by rw [Nat.add_sub_cancel' (by omega)])).symm
    · rfl

/-! The bytes of a word (R55). -/

/-- The bytes of a word put together are the word. -/
@[simp] theorem wordOfBytes_bytes (op : Word) : wordOfBytes (highByte op) (lowByte op) = op :=
  BitVec.eq_of_getLsbD_eq fun k hk => by
    rw [getLsbD_wordOfBytes]
    split
    · rw [lowByte, getLsbD_extract (by omega), Nat.zero_add]
    · rw [highByte, getLsbD_extract (by omega), Nat.add_sub_cancel' (by omega)]

@[simp] theorem highByte_wordOfBytes (hi lo : Byte) : highByte (wordOfBytes hi lo) = hi :=
  extract_eq fun k _ => by simp [getLsbD_wordOfBytes]

@[simp] theorem lowByte_wordOfBytes (hi lo : Byte) : lowByte (wordOfBytes hi lo) = lo :=
  extract_eq fun k hk => by simp [getLsbD_wordOfBytes, hk]

/-- The decoder on the bytes of a word is the decoder on the word. -/
theorem decodeBytes_word (op : Word) (rest : List Byte) :
    decodeBytes (highByte op :: lowByte op :: rest) = (decodeWord op).map (fun i => (i, rest)) := by
  rw [decodeBytes, wordOfBytes_bytes]

end Sys2Proof
end

