-- ==== Sys2Proof/Laws/State.lean ====
section
/-! SUPPORT. One lemma per field per update of the state, true by rfl, and the lemmas that reduce the derived updates to
them. -/

namespace Sys2Proof.Machine

variable (s : State)

/-! `State.writeByte` -/

@[simp] theorem State.writeByte_v (a : Nat) (b : Byte) : (s.writeByte a b).v = s.v := rfl
@[simp] theorem State.writeByte_i (a : Nat) (b : Byte) : (s.writeByte a b).i = s.i := rfl
@[simp] theorem State.writeByte_pc (a : Nat) (b : Byte) : (s.writeByte a b).pc = s.pc := rfl
@[simp] theorem State.writeByte_stack (a : Nat) (b : Byte) : (s.writeByte a b).stack = s.stack := rfl
@[simp] theorem State.writeByte_sp (a : Nat) (b : Byte) : (s.writeByte a b).sp = s.sp := rfl
@[simp] theorem State.writeByte_dt (a : Nat) (b : Byte) : (s.writeByte a b).dt = s.dt := rfl
@[simp] theorem State.writeByte_st (a : Nat) (b : Byte) : (s.writeByte a b).st = s.st := rfl
@[simp] theorem State.writeByte_key (a : Nat) (b : Byte) : (s.writeByte a b).key = s.key := rfl
@[simp] theorem State.writeByte_disp (a : Nat) (b : Byte) : (s.writeByte a b).disp = s.disp := rfl
@[simp] theorem State.writeByte_opc (a : Nat) (b : Byte) : (s.writeByte a b).opc = s.opc := rfl
@[simp] theorem State.writeByte_run (a : Nat) (b : Byte) : (s.writeByte a b).run = s.run := rfl
@[simp] theorem State.writeByte_fault (a : Nat) (b : Byte) : (s.writeByte a b).fault = s.fault := rfl
@[simp] theorem State.writeByte_cause (a : Nat) (b : Byte) : (s.writeByte a b).cause = s.cause := rfl
@[simp] theorem State.writeByte_chg (a : Nat) (b : Byte) : (s.writeByte a b).chg = s.chg := rfl
@[simp] theorem State.writeByte_mem (a : Nat) (b : Byte) : (s.writeByte a b).mem = s.mem.set a b := rfl
@[simp] theorem State.writeByte_draws (a : Nat) (b : Byte) : (s.writeByte a b).draws = s.draws := rfl
@[simp] theorem State.writeByte_schedule (a : Nat) (b : Byte) : (s.writeByte a b).schedule = s.schedule := rfl
@[simp] theorem State.writeByte_event (a : Nat) (b : Byte) : (s.writeByte a b).event = s.event := rfl

/-! `State.writeV` -/

@[simp] theorem State.writeV_v (x : RegIx) (b : Byte) : (s.writeV x b).v = s.v.set x b := rfl
@[simp] theorem State.writeV_i (x : RegIx) (b : Byte) : (s.writeV x b).i = s.i := rfl
@[simp] theorem State.writeV_pc (x : RegIx) (b : Byte) : (s.writeV x b).pc = s.pc := rfl
@[simp] theorem State.writeV_stack (x : RegIx) (b : Byte) : (s.writeV x b).stack = s.stack := rfl
@[simp] theorem State.writeV_sp (x : RegIx) (b : Byte) : (s.writeV x b).sp = s.sp := rfl
@[simp] theorem State.writeV_dt (x : RegIx) (b : Byte) : (s.writeV x b).dt = s.dt := rfl
@[simp] theorem State.writeV_st (x : RegIx) (b : Byte) : (s.writeV x b).st = s.st := rfl
@[simp] theorem State.writeV_key (x : RegIx) (b : Byte) : (s.writeV x b).key = s.key := rfl
@[simp] theorem State.writeV_disp (x : RegIx) (b : Byte) : (s.writeV x b).disp = s.disp := rfl
@[simp] theorem State.writeV_opc (x : RegIx) (b : Byte) : (s.writeV x b).opc = s.opc := rfl
@[simp] theorem State.writeV_run (x : RegIx) (b : Byte) : (s.writeV x b).run = s.run := rfl
@[simp] theorem State.writeV_fault (x : RegIx) (b : Byte) : (s.writeV x b).fault = s.fault := rfl
@[simp] theorem State.writeV_cause (x : RegIx) (b : Byte) : (s.writeV x b).cause = s.cause := rfl
@[simp] theorem State.writeV_chg (x : RegIx) (b : Byte) : (s.writeV x b).chg = s.chg.set x true := rfl
@[simp] theorem State.writeV_mem (x : RegIx) (b : Byte) : (s.writeV x b).mem = s.mem := rfl
@[simp] theorem State.writeV_draws (x : RegIx) (b : Byte) : (s.writeV x b).draws = s.draws := rfl
@[simp] theorem State.writeV_schedule (x : RegIx) (b : Byte) : (s.writeV x b).schedule = s.schedule := rfl
@[simp] theorem State.writeV_event (x : RegIx) (b : Byte) : (s.writeV x b).event = s.event := rfl

/-! `State.setPc` -/

@[simp] theorem State.setPc_v (w : Word) : (s.setPc w).v = s.v := rfl
@[simp] theorem State.setPc_i (w : Word) : (s.setPc w).i = s.i := rfl
@[simp] theorem State.setPc_pc (w : Word) : (s.setPc w).pc = w := rfl
@[simp] theorem State.setPc_stack (w : Word) : (s.setPc w).stack = s.stack := rfl
@[simp] theorem State.setPc_sp (w : Word) : (s.setPc w).sp = s.sp := rfl
@[simp] theorem State.setPc_dt (w : Word) : (s.setPc w).dt = s.dt := rfl
@[simp] theorem State.setPc_st (w : Word) : (s.setPc w).st = s.st := rfl
@[simp] theorem State.setPc_key (w : Word) : (s.setPc w).key = s.key := rfl
@[simp] theorem State.setPc_disp (w : Word) : (s.setPc w).disp = s.disp := rfl
@[simp] theorem State.setPc_opc (w : Word) : (s.setPc w).opc = s.opc := rfl
@[simp] theorem State.setPc_run (w : Word) : (s.setPc w).run = s.run := rfl
@[simp] theorem State.setPc_fault (w : Word) : (s.setPc w).fault = s.fault := rfl
@[simp] theorem State.setPc_cause (w : Word) : (s.setPc w).cause = s.cause := rfl
@[simp] theorem State.setPc_chg (w : Word) : (s.setPc w).chg = s.chg := rfl
@[simp] theorem State.setPc_mem (w : Word) : (s.setPc w).mem = s.mem := rfl
@[simp] theorem State.setPc_draws (w : Word) : (s.setPc w).draws = s.draws := rfl
@[simp] theorem State.setPc_schedule (w : Word) : (s.setPc w).schedule = s.schedule := rfl
@[simp] theorem State.setPc_event (w : Word) : (s.setPc w).event = s.event := rfl

/-! `State.setI` -/

@[simp] theorem State.setI_v (w : Word) : (s.setI w).v = s.v := rfl
@[simp] theorem State.setI_i (w : Word) : (s.setI w).i = w := rfl
@[simp] theorem State.setI_pc (w : Word) : (s.setI w).pc = s.pc := rfl
@[simp] theorem State.setI_stack (w : Word) : (s.setI w).stack = s.stack := rfl
@[simp] theorem State.setI_sp (w : Word) : (s.setI w).sp = s.sp := rfl
@[simp] theorem State.setI_dt (w : Word) : (s.setI w).dt = s.dt := rfl
@[simp] theorem State.setI_st (w : Word) : (s.setI w).st = s.st := rfl
@[simp] theorem State.setI_key (w : Word) : (s.setI w).key = s.key := rfl
@[simp] theorem State.setI_disp (w : Word) : (s.setI w).disp = s.disp := rfl
@[simp] theorem State.setI_opc (w : Word) : (s.setI w).opc = s.opc := rfl
@[simp] theorem State.setI_run (w : Word) : (s.setI w).run = s.run := rfl
@[simp] theorem State.setI_fault (w : Word) : (s.setI w).fault = s.fault := rfl
@[simp] theorem State.setI_cause (w : Word) : (s.setI w).cause = s.cause := rfl
@[simp] theorem State.setI_chg (w : Word) : (s.setI w).chg = s.chg := rfl
@[simp] theorem State.setI_mem (w : Word) : (s.setI w).mem = s.mem := rfl
@[simp] theorem State.setI_draws (w : Word) : (s.setI w).draws = s.draws := rfl
@[simp] theorem State.setI_schedule (w : Word) : (s.setI w).schedule = s.schedule := rfl
@[simp] theorem State.setI_event (w : Word) : (s.setI w).event = s.event := rfl

/-! `State.setDt` -/

@[simp] theorem State.setDt_v (b : Byte) : (s.setDt b).v = s.v := rfl
@[simp] theorem State.setDt_i (b : Byte) : (s.setDt b).i = s.i := rfl
@[simp] theorem State.setDt_pc (b : Byte) : (s.setDt b).pc = s.pc := rfl
@[simp] theorem State.setDt_stack (b : Byte) : (s.setDt b).stack = s.stack := rfl
@[simp] theorem State.setDt_sp (b : Byte) : (s.setDt b).sp = s.sp := rfl
@[simp] theorem State.setDt_dt (b : Byte) : (s.setDt b).dt = b := rfl
@[simp] theorem State.setDt_st (b : Byte) : (s.setDt b).st = s.st := rfl
@[simp] theorem State.setDt_key (b : Byte) : (s.setDt b).key = s.key := rfl
@[simp] theorem State.setDt_disp (b : Byte) : (s.setDt b).disp = s.disp := rfl
@[simp] theorem State.setDt_opc (b : Byte) : (s.setDt b).opc = s.opc := rfl
@[simp] theorem State.setDt_run (b : Byte) : (s.setDt b).run = s.run := rfl
@[simp] theorem State.setDt_fault (b : Byte) : (s.setDt b).fault = s.fault := rfl
@[simp] theorem State.setDt_cause (b : Byte) : (s.setDt b).cause = s.cause := rfl
@[simp] theorem State.setDt_chg (b : Byte) : (s.setDt b).chg = s.chg := rfl
@[simp] theorem State.setDt_mem (b : Byte) : (s.setDt b).mem = s.mem := rfl
@[simp] theorem State.setDt_draws (b : Byte) : (s.setDt b).draws = s.draws := rfl
@[simp] theorem State.setDt_schedule (b : Byte) : (s.setDt b).schedule = s.schedule := rfl
@[simp] theorem State.setDt_event (b : Byte) : (s.setDt b).event = s.event := rfl

/-! `State.setSt` -/

@[simp] theorem State.setSt_v (b : Byte) : (s.setSt b).v = s.v := rfl
@[simp] theorem State.setSt_i (b : Byte) : (s.setSt b).i = s.i := rfl
@[simp] theorem State.setSt_pc (b : Byte) : (s.setSt b).pc = s.pc := rfl
@[simp] theorem State.setSt_stack (b : Byte) : (s.setSt b).stack = s.stack := rfl
@[simp] theorem State.setSt_sp (b : Byte) : (s.setSt b).sp = s.sp := rfl
@[simp] theorem State.setSt_dt (b : Byte) : (s.setSt b).dt = s.dt := rfl
@[simp] theorem State.setSt_st (b : Byte) : (s.setSt b).st = b := rfl
@[simp] theorem State.setSt_key (b : Byte) : (s.setSt b).key = s.key := rfl
@[simp] theorem State.setSt_disp (b : Byte) : (s.setSt b).disp = s.disp := rfl
@[simp] theorem State.setSt_opc (b : Byte) : (s.setSt b).opc = s.opc := rfl
@[simp] theorem State.setSt_run (b : Byte) : (s.setSt b).run = s.run := rfl
@[simp] theorem State.setSt_fault (b : Byte) : (s.setSt b).fault = s.fault := rfl
@[simp] theorem State.setSt_cause (b : Byte) : (s.setSt b).cause = s.cause := rfl
@[simp] theorem State.setSt_chg (b : Byte) : (s.setSt b).chg = s.chg := rfl
@[simp] theorem State.setSt_mem (b : Byte) : (s.setSt b).mem = s.mem := rfl
@[simp] theorem State.setSt_draws (b : Byte) : (s.setSt b).draws = s.draws := rfl
@[simp] theorem State.setSt_schedule (b : Byte) : (s.setSt b).schedule = s.schedule := rfl
@[simp] theorem State.setSt_event (b : Byte) : (s.setSt b).event = s.event := rfl

/-! `State.latch` -/

@[simp] theorem State.latch_v (op : Word) : (s.latch op).v = s.v := rfl
@[simp] theorem State.latch_i (op : Word) : (s.latch op).i = s.i := rfl
@[simp] theorem State.latch_pc (op : Word) : (s.latch op).pc = s.pc := rfl
@[simp] theorem State.latch_stack (op : Word) : (s.latch op).stack = s.stack := rfl
@[simp] theorem State.latch_sp (op : Word) : (s.latch op).sp = s.sp := rfl
@[simp] theorem State.latch_dt (op : Word) : (s.latch op).dt = s.dt := rfl
@[simp] theorem State.latch_st (op : Word) : (s.latch op).st = s.st := rfl
@[simp] theorem State.latch_key (op : Word) : (s.latch op).key = s.key := rfl
@[simp] theorem State.latch_disp (op : Word) : (s.latch op).disp = s.disp := rfl
@[simp] theorem State.latch_opc (op : Word) : (s.latch op).opc = op := rfl
@[simp] theorem State.latch_run (op : Word) : (s.latch op).run = s.run := rfl
@[simp] theorem State.latch_fault (op : Word) : (s.latch op).fault = s.fault := rfl
@[simp] theorem State.latch_cause (op : Word) : (s.latch op).cause = s.cause := rfl
@[simp] theorem State.latch_chg (op : Word) : (s.latch op).chg = s.chg := rfl
@[simp] theorem State.latch_mem (op : Word) : (s.latch op).mem = s.mem := rfl
@[simp] theorem State.latch_draws (op : Word) : (s.latch op).draws = s.draws := rfl
@[simp] theorem State.latch_schedule (op : Word) : (s.latch op).schedule = s.schedule := rfl
@[simp] theorem State.latch_event (op : Word) : (s.latch op).event = s.event := rfl

/-! `State.setDisp` -/

@[simp] theorem State.setDisp_v (d : Vector Bool 2048) : (s.setDisp d).v = s.v := rfl
@[simp] theorem State.setDisp_i (d : Vector Bool 2048) : (s.setDisp d).i = s.i := rfl
@[simp] theorem State.setDisp_pc (d : Vector Bool 2048) : (s.setDisp d).pc = s.pc := rfl
@[simp] theorem State.setDisp_stack (d : Vector Bool 2048) : (s.setDisp d).stack = s.stack := rfl
@[simp] theorem State.setDisp_sp (d : Vector Bool 2048) : (s.setDisp d).sp = s.sp := rfl
@[simp] theorem State.setDisp_dt (d : Vector Bool 2048) : (s.setDisp d).dt = s.dt := rfl
@[simp] theorem State.setDisp_st (d : Vector Bool 2048) : (s.setDisp d).st = s.st := rfl
@[simp] theorem State.setDisp_key (d : Vector Bool 2048) : (s.setDisp d).key = s.key := rfl
@[simp] theorem State.setDisp_disp (d : Vector Bool 2048) : (s.setDisp d).disp = d := rfl
@[simp] theorem State.setDisp_opc (d : Vector Bool 2048) : (s.setDisp d).opc = s.opc := rfl
@[simp] theorem State.setDisp_run (d : Vector Bool 2048) : (s.setDisp d).run = s.run := rfl
@[simp] theorem State.setDisp_fault (d : Vector Bool 2048) : (s.setDisp d).fault = s.fault := rfl
@[simp] theorem State.setDisp_cause (d : Vector Bool 2048) : (s.setDisp d).cause = s.cause := rfl
@[simp] theorem State.setDisp_chg (d : Vector Bool 2048) : (s.setDisp d).chg = s.chg := rfl
@[simp] theorem State.setDisp_mem (d : Vector Bool 2048) : (s.setDisp d).mem = s.mem := rfl
@[simp] theorem State.setDisp_draws (d : Vector Bool 2048) : (s.setDisp d).draws = s.draws := rfl
@[simp] theorem State.setDisp_schedule (d : Vector Bool 2048) : (s.setDisp d).schedule = s.schedule := rfl
@[simp] theorem State.setDisp_event (d : Vector Bool 2048) : (s.setDisp d).event = s.event := rfl

/-! `State.setKey` -/

@[simp] theorem State.setKey_v (k : KeyIx) (down : Bool) : (s.setKey k down).v = s.v := rfl
@[simp] theorem State.setKey_i (k : KeyIx) (down : Bool) : (s.setKey k down).i = s.i := rfl
@[simp] theorem State.setKey_pc (k : KeyIx) (down : Bool) : (s.setKey k down).pc = s.pc := rfl
@[simp] theorem State.setKey_stack (k : KeyIx) (down : Bool) : (s.setKey k down).stack = s.stack := rfl
@[simp] theorem State.setKey_sp (k : KeyIx) (down : Bool) : (s.setKey k down).sp = s.sp := rfl
@[simp] theorem State.setKey_dt (k : KeyIx) (down : Bool) : (s.setKey k down).dt = s.dt := rfl
@[simp] theorem State.setKey_st (k : KeyIx) (down : Bool) : (s.setKey k down).st = s.st := rfl
@[simp] theorem State.setKey_key (k : KeyIx) (down : Bool) : (s.setKey k down).key = s.key.set k down := rfl
@[simp] theorem State.setKey_disp (k : KeyIx) (down : Bool) : (s.setKey k down).disp = s.disp := rfl
@[simp] theorem State.setKey_opc (k : KeyIx) (down : Bool) : (s.setKey k down).opc = s.opc := rfl
@[simp] theorem State.setKey_run (k : KeyIx) (down : Bool) : (s.setKey k down).run = s.run := rfl
@[simp] theorem State.setKey_fault (k : KeyIx) (down : Bool) : (s.setKey k down).fault = s.fault := rfl
@[simp] theorem State.setKey_cause (k : KeyIx) (down : Bool) : (s.setKey k down).cause = s.cause := rfl
@[simp] theorem State.setKey_chg (k : KeyIx) (down : Bool) : (s.setKey k down).chg = s.chg := rfl
@[simp] theorem State.setKey_mem (k : KeyIx) (down : Bool) : (s.setKey k down).mem = s.mem := rfl
@[simp] theorem State.setKey_draws (k : KeyIx) (down : Bool) : (s.setKey k down).draws = s.draws := rfl
@[simp] theorem State.setKey_schedule (k : KeyIx) (down : Bool) : (s.setKey k down).schedule = s.schedule := rfl
@[simp] theorem State.setKey_event (k : KeyIx) (down : Bool) : (s.setKey k down).event = s.event := rfl

/-! `State.setRun` -/

@[simp] theorem State.setRun_v (b : Bool) : (s.setRun b).v = s.v := rfl
@[simp] theorem State.setRun_i (b : Bool) : (s.setRun b).i = s.i := rfl
@[simp] theorem State.setRun_pc (b : Bool) : (s.setRun b).pc = s.pc := rfl
@[simp] theorem State.setRun_stack (b : Bool) : (s.setRun b).stack = s.stack := rfl
@[simp] theorem State.setRun_sp (b : Bool) : (s.setRun b).sp = s.sp := rfl
@[simp] theorem State.setRun_dt (b : Bool) : (s.setRun b).dt = s.dt := rfl
@[simp] theorem State.setRun_st (b : Bool) : (s.setRun b).st = s.st := rfl
@[simp] theorem State.setRun_key (b : Bool) : (s.setRun b).key = s.key := rfl
@[simp] theorem State.setRun_disp (b : Bool) : (s.setRun b).disp = s.disp := rfl
@[simp] theorem State.setRun_opc (b : Bool) : (s.setRun b).opc = s.opc := rfl
@[simp] theorem State.setRun_run (b : Bool) : (s.setRun b).run = b := rfl
@[simp] theorem State.setRun_fault (b : Bool) : (s.setRun b).fault = s.fault := rfl
@[simp] theorem State.setRun_cause (b : Bool) : (s.setRun b).cause = s.cause := rfl
@[simp] theorem State.setRun_chg (b : Bool) : (s.setRun b).chg = s.chg := rfl
@[simp] theorem State.setRun_mem (b : Bool) : (s.setRun b).mem = s.mem := rfl
@[simp] theorem State.setRun_draws (b : Bool) : (s.setRun b).draws = s.draws := rfl
@[simp] theorem State.setRun_schedule (b : Bool) : (s.setRun b).schedule = s.schedule := rfl
@[simp] theorem State.setRun_event (b : Bool) : (s.setRun b).event = s.event := rfl

/-! `State.emit` -/

@[simp] theorem State.emit_v (e : Event) : (s.emit e).v = s.v := rfl
@[simp] theorem State.emit_i (e : Event) : (s.emit e).i = s.i := rfl
@[simp] theorem State.emit_pc (e : Event) : (s.emit e).pc = s.pc := rfl
@[simp] theorem State.emit_stack (e : Event) : (s.emit e).stack = s.stack := rfl
@[simp] theorem State.emit_sp (e : Event) : (s.emit e).sp = s.sp := rfl
@[simp] theorem State.emit_dt (e : Event) : (s.emit e).dt = s.dt := rfl
@[simp] theorem State.emit_st (e : Event) : (s.emit e).st = s.st := rfl
@[simp] theorem State.emit_key (e : Event) : (s.emit e).key = s.key := rfl
@[simp] theorem State.emit_disp (e : Event) : (s.emit e).disp = s.disp := rfl
@[simp] theorem State.emit_opc (e : Event) : (s.emit e).opc = s.opc := rfl
@[simp] theorem State.emit_run (e : Event) : (s.emit e).run = s.run := rfl
@[simp] theorem State.emit_fault (e : Event) : (s.emit e).fault = s.fault := rfl
@[simp] theorem State.emit_cause (e : Event) : (s.emit e).cause = s.cause := rfl
@[simp] theorem State.emit_chg (e : Event) : (s.emit e).chg = s.chg := rfl
@[simp] theorem State.emit_mem (e : Event) : (s.emit e).mem = s.mem := rfl
@[simp] theorem State.emit_draws (e : Event) : (s.emit e).draws = s.draws := rfl
@[simp] theorem State.emit_schedule (e : Event) : (s.emit e).schedule = s.schedule := rfl
@[simp] theorem State.emit_event (e : Event) : (s.emit e).event = some e := rfl

/-! `State.countDraw` -/

@[simp] theorem State.countDraw_v : (s.countDraw).v = s.v := rfl
@[simp] theorem State.countDraw_i : (s.countDraw).i = s.i := rfl
@[simp] theorem State.countDraw_pc : (s.countDraw).pc = s.pc := rfl
@[simp] theorem State.countDraw_stack : (s.countDraw).stack = s.stack := rfl
@[simp] theorem State.countDraw_sp : (s.countDraw).sp = s.sp := rfl
@[simp] theorem State.countDraw_dt : (s.countDraw).dt = s.dt := rfl
@[simp] theorem State.countDraw_st : (s.countDraw).st = s.st := rfl
@[simp] theorem State.countDraw_key : (s.countDraw).key = s.key := rfl
@[simp] theorem State.countDraw_disp : (s.countDraw).disp = s.disp := rfl
@[simp] theorem State.countDraw_opc : (s.countDraw).opc = s.opc := rfl
@[simp] theorem State.countDraw_run : (s.countDraw).run = s.run := rfl
@[simp] theorem State.countDraw_fault : (s.countDraw).fault = s.fault := rfl
@[simp] theorem State.countDraw_cause : (s.countDraw).cause = s.cause := rfl
@[simp] theorem State.countDraw_chg : (s.countDraw).chg = s.chg := rfl
@[simp] theorem State.countDraw_mem : (s.countDraw).mem = s.mem := rfl
@[simp] theorem State.countDraw_draws : (s.countDraw).draws = s.draws + 1 := rfl
@[simp] theorem State.countDraw_schedule : (s.countDraw).schedule = s.schedule := rfl
@[simp] theorem State.countDraw_event : (s.countDraw).event = s.event := rfl

/-! `State.clearChg` -/

@[simp] theorem State.clearChg_v : (s.clearChg).v = s.v := rfl
@[simp] theorem State.clearChg_i : (s.clearChg).i = s.i := rfl
@[simp] theorem State.clearChg_pc : (s.clearChg).pc = s.pc := rfl
@[simp] theorem State.clearChg_stack : (s.clearChg).stack = s.stack := rfl
@[simp] theorem State.clearChg_sp : (s.clearChg).sp = s.sp := rfl
@[simp] theorem State.clearChg_dt : (s.clearChg).dt = s.dt := rfl
@[simp] theorem State.clearChg_st : (s.clearChg).st = s.st := rfl
@[simp] theorem State.clearChg_key : (s.clearChg).key = s.key := rfl
@[simp] theorem State.clearChg_disp : (s.clearChg).disp = s.disp := rfl
@[simp] theorem State.clearChg_opc : (s.clearChg).opc = s.opc := rfl
@[simp] theorem State.clearChg_run : (s.clearChg).run = s.run := rfl
@[simp] theorem State.clearChg_fault : (s.clearChg).fault = s.fault := rfl
@[simp] theorem State.clearChg_cause : (s.clearChg).cause = s.cause := rfl
@[simp] theorem State.clearChg_chg : (s.clearChg).chg = Vector.replicate 16 false := rfl
@[simp] theorem State.clearChg_mem : (s.clearChg).mem = s.mem := rfl
@[simp] theorem State.clearChg_draws : (s.clearChg).draws = s.draws := rfl
@[simp] theorem State.clearChg_schedule : (s.clearChg).schedule = s.schedule := rfl
@[simp] theorem State.clearChg_event : (s.clearChg).event = s.event := rfl

/-! `State.begin` -/

@[simp] theorem State.begin_v (rest : List Input) : (s.begin rest).v = s.v := rfl
@[simp] theorem State.begin_i (rest : List Input) : (s.begin rest).i = s.i := rfl
@[simp] theorem State.begin_pc (rest : List Input) : (s.begin rest).pc = s.pc := rfl
@[simp] theorem State.begin_stack (rest : List Input) : (s.begin rest).stack = s.stack := rfl
@[simp] theorem State.begin_sp (rest : List Input) : (s.begin rest).sp = s.sp := rfl
@[simp] theorem State.begin_dt (rest : List Input) : (s.begin rest).dt = s.dt := rfl
@[simp] theorem State.begin_st (rest : List Input) : (s.begin rest).st = s.st := rfl
@[simp] theorem State.begin_key (rest : List Input) : (s.begin rest).key = s.key := rfl
@[simp] theorem State.begin_disp (rest : List Input) : (s.begin rest).disp = s.disp := rfl
@[simp] theorem State.begin_opc (rest : List Input) : (s.begin rest).opc = s.opc := rfl
@[simp] theorem State.begin_run (rest : List Input) : (s.begin rest).run = s.run := rfl
@[simp] theorem State.begin_fault (rest : List Input) : (s.begin rest).fault = s.fault := rfl
@[simp] theorem State.begin_cause (rest : List Input) : (s.begin rest).cause = s.cause := rfl
@[simp] theorem State.begin_chg (rest : List Input) : (s.begin rest).chg = s.chg := rfl
@[simp] theorem State.begin_mem (rest : List Input) : (s.begin rest).mem = s.mem := rfl
@[simp] theorem State.begin_draws (rest : List Input) : (s.begin rest).draws = s.draws := rfl
@[simp] theorem State.begin_schedule (rest : List Input) : (s.begin rest).schedule = rest := rfl
@[simp] theorem State.begin_event (rest : List Input) : (s.begin rest).event = none := rfl

/-! `State.raise` -/

@[simp] theorem State.raise_v (c : Cause) : (s.raise c).v = s.v := rfl
@[simp] theorem State.raise_i (c : Cause) : (s.raise c).i = s.i := rfl
@[simp] theorem State.raise_pc (c : Cause) : (s.raise c).pc = s.pc := rfl
@[simp] theorem State.raise_stack (c : Cause) : (s.raise c).stack = s.stack := rfl
@[simp] theorem State.raise_sp (c : Cause) : (s.raise c).sp = s.sp := rfl
@[simp] theorem State.raise_dt (c : Cause) : (s.raise c).dt = s.dt := rfl
@[simp] theorem State.raise_st (c : Cause) : (s.raise c).st = s.st := rfl
@[simp] theorem State.raise_key (c : Cause) : (s.raise c).key = s.key := rfl
@[simp] theorem State.raise_disp (c : Cause) : (s.raise c).disp = s.disp := rfl
@[simp] theorem State.raise_opc (c : Cause) : (s.raise c).opc = s.opc := rfl
@[simp] theorem State.raise_run (c : Cause) : (s.raise c).run = false := rfl
@[simp] theorem State.raise_fault (c : Cause) : (s.raise c).fault = true := rfl
@[simp] theorem State.raise_cause (c : Cause) : (s.raise c).cause = c := rfl
@[simp] theorem State.raise_chg (c : Cause) : (s.raise c).chg = s.chg := rfl
@[simp] theorem State.raise_mem (c : Cause) : (s.raise c).mem = s.mem := rfl
@[simp] theorem State.raise_draws (c : Cause) : (s.raise c).draws = s.draws := rfl
@[simp] theorem State.raise_schedule (c : Cause) : (s.raise c).schedule = s.schedule := rfl
@[simp] theorem State.raise_event (c : Cause) : (s.raise c).event = s.event := rfl

/-! Derived updates and reads, reduced to the ones above. -/

@[simp] theorem State.advance_eq : s.advance = s.setPc (s.pc + 2) := rfl

@[simp] theorem State.skipIf_eq (c : Bool) : s.skipIf c = s.setPc (if c then s.pc + 4 else s.pc + 2) := rfl

@[simp] theorem State.writeFlag_eq (c : Bool) : s.writeFlag c = s.writeV vf (flagByte c) := rfl

@[simp] theorem State.writeWithFlag_eq (x : RegIx) (r : Byte) (c : Bool) :
    s.writeWithFlag x r c = (s.writeV x r).writeV vf (flagByte c) := rfl

@[simp] theorem State.readByte_eq (a : Nat) : s.readByte a = s.mem.get a := rfl

@[simp] theorem State.ea_eq (k : Nat) : s.ea k = s.i.toNat + k := rfl

@[simp] theorem outOfMemory_eq_true (a : Nat) : outOfMemory a = true ↔ 4095 < a := by
  simp [outOfMemory]

@[simp] theorem outOfMemory_eq_false (a : Nat) : outOfMemory a = false ↔ a ≤ 4095 := by
  simp [outOfMemory]

/-- A register just written reads back; every other one is unchanged. -/
theorem State.writeV_get (x r : RegIx) (b : Byte) :
    (s.writeV x b).v[r] = if r = x then b else s.v[r] := by
  simp only [State.writeV_v, Fin.getElem_fin, Vector.getElem_set, Fin.ext_iff, eq_comm]

/-- The changed flag of a register just written is set; every other one is unchanged. -/
theorem State.writeV_chg_get (x r : RegIx) (b : Byte) :
    (s.writeV x b).chg[r] = if r = x then true else s.chg[r] := by
  simp only [State.writeV_chg, Fin.getElem_fin, Vector.getElem_set, Fin.ext_iff, eq_comm]

end Sys2Proof.Machine
end

