-- ==== Sys2Proof/Laws/Display.lean ====
section
/-! SUPPORT. The sprite: which indices it targets, that it targets none twice, and what toggling a list of indices does. -/

namespace Sys2Proof.Machine

/-- Toggling an index inverts that pixel, and no other. -/
theorem Canvas.toggle_disp (c : Canvas) (idx : Nat) (p : Fin 2048) :
    (c.toggle idx).disp[p] = if p.val = idx then !c.disp[p] else c.disp[p] := by
  unfold Canvas.toggle
  split
  · by_cases e : idx = p.val
    · subst e; simp
    · simp [e, Ne.symm e]
  · next h => rw [if_neg (by omega)]

/-- Toggling an index is a collision when its pixel was lit. -/
theorem Canvas.toggle_hit (c : Canvas) (idx : Nat) :
    (c.toggle idx).hit = true ↔ c.hit = true ∨ ∃ p : Fin 2048, p.val = idx ∧ c.disp[p] = true := by
  unfold Canvas.toggle
  split
  · next h =>
    simp only [Bool.or_eq_true]
    exact or_congr_right ⟨fun e => ⟨⟨idx, h⟩, rfl, e⟩, fun ⟨p, e, hp⟩ => by subst e; exact hp⟩
  · next h => exact ⟨.inl, fun e => e.elim id fun ⟨p, hp, _⟩ => absurd p.isLt (by omega)⟩

/-- Toggling a list without repeats inverts exactly the pixels it lists. -/
theorem Canvas.toggleAll_disp {ts : List Nat} (hn : ts.Nodup) (c : Canvas) (p : Fin 2048) :
    (c.toggleAll ts).disp[p] = if p.val ∈ ts then !c.disp[p] else c.disp[p] := by
  induction ts generalizing c with
  | nil => simp [Canvas.toggleAll]
  | cons t ts ih =>
    rw [List.nodup_cons] at hn
    rw [show c.toggleAll (t :: ts) = (c.toggle t).toggleAll ts from rfl, ih hn.2, Canvas.toggle_disp]
    by_cases e : p.val = t
    · simp [e, hn.1]
    · simp [e]

/-- Toggling a list without repeats is a collision exactly when a pixel it lists was lit before. -/
theorem Canvas.toggleAll_hit {ts : List Nat} (hn : ts.Nodup) (c : Canvas) :
    (c.toggleAll ts).hit = true ↔ c.hit = true ∨ ∃ p : Fin 2048, p.val ∈ ts ∧ c.disp[p] = true := by
  induction ts generalizing c with
  | nil => simp [Canvas.toggleAll]
  | cons t ts ih =>
    rw [List.nodup_cons] at hn
    rw [show c.toggleAll (t :: ts) = (c.toggle t).toggleAll ts from rfl, ih hn.2, Canvas.toggle_hit, or_assoc]
    refine or_congr_right ⟨?_, ?_⟩
    · rintro (⟨p, hp, h⟩ | ⟨p, hp, h⟩)
      · exact ⟨p, by simp [hp], h⟩
      · have ne : p.val ≠ t := fun e => hn.1 (e ▸ hp)
        rw [Canvas.toggle_disp, if_neg ne] at h
        exact ⟨p, List.mem_cons_of_mem _ hp, h⟩
    · rintro ⟨p, hp, h⟩
      rcases List.mem_cons.1 hp with e | hp'
      · exact .inl ⟨p, e, h⟩
      · have ne : p.val ≠ t := fun e => hn.1 (e ▸ hp')
        exact .inr ⟨p, hp', by rwa [Canvas.toggle_disp, if_neg ne]⟩

/-- The targets of a sprite are the indices of its set bits. -/
theorem State.mem_spriteTargets (s : State) (vx vy : Byte) (n p : Nat) :
    p ∈ s.spriteTargets vx vy n ↔
      ∃ row col : Nat, row < n ∧ col < 8 ∧ (s.readByte (s.i.toNat + row)).getLsbD (7 - col) = true ∧
        p = (vx.toNat + col) + 64 * (vy.toNat + row) := by
  simp only [State.spriteTargets, rowTargets, pixelIndex, List.mem_flatMap, List.mem_map, List.mem_filter,
    List.mem_range, State.ea_eq]
  constructor
  · rintro ⟨row, hr, col, ⟨hc, hb⟩, e⟩
    exact ⟨row, col, hr, hc, hb, e.symm⟩
  · rintro ⟨row, col, hr, hc, hb, e⟩
    exact ⟨row, hr, col, ⟨hc, hb⟩, e.symm⟩

/-- "no pixel is toggled twice in one draw" (R162). -/
theorem State.spriteTargets_nodup (s : State) (vx vy : Byte) (n : Nat) : (s.spriteTargets vx vy n).Nodup := by
  unfold State.spriteTargets
  rw [List.nodup_flatMap]
  refine ⟨fun row _ => ?_, ?_⟩
  · refine List.Nodup.map (fun a b e => ?_) (List.nodup_range.filter _)
    simp only [pixelIndex] at e; omega
  · refine List.nodup_range.imp ?_
    intro r r' ne p h h'
    simp only [rowTargets, pixelIndex, List.mem_map, List.mem_filter, List.mem_range] at h h'
    obtain ⟨c, ⟨hc, _⟩, e⟩ := h
    obtain ⟨c', ⟨hc', _⟩, e'⟩ := h'
    omega

end Sys2Proof.Machine
end

