-- ==== Sys2Proof/Laws/Memory.lean ====
section
/-! SUPPORT. The memory list: read after write, the canonical form kept by every operation, equal contents are equal lists. -/

namespace Sys2Proof.Machine

theorem Memory.get_nil (a : Nat) : Memory.get [] a = Memory.resetByte a := rfl

/-- Below the first address of a canonical list, everything reads as at reset. -/
theorem Memory.get_of_lt {m : Memory} {lo a : Nat} (h : Memory.wfFrom lo m = true) (ha : a < lo) :
    m.get a = Memory.resetByte a := by
  induction m generalizing lo with
  | nil => rfl
  | cons kb m ih =>
    obtain ⟨k, b⟩ := kb
    simp only [Memory.wfFrom, Bool.and_eq_true, decide_eq_true_eq] at h
    rw [Memory.get, if_neg (by omega)]
    exact ih h.2 (by omega)

theorem Memory.wfFrom_mono {m : Memory} {lo lo' : Nat} (h : Memory.wfFrom lo m = true) (hl : lo' ≤ lo) :
    Memory.wfFrom lo' m = true := by
  cases m with
  | nil => rfl
  | cons kb m =>
    simp only [Memory.wfFrom, Bool.and_eq_true, decide_eq_true_eq] at h ⊢
    exact ⟨⟨⟨by omega, h.1.1.2⟩, h.1.2⟩, h.2⟩

theorem Memory.get_put_ne (m : Memory) {a a' : Nat} (b : Byte) (h : a' ≠ a) :
    (m.put a b).get a' = m.get a' := by
  induction m with
  | nil => simp only [Memory.put]; split <;> simp [Memory.get, h]
  | cons kc m ih =>
    obtain ⟨k, c⟩ := kc
    simp only [Memory.put]
    split
    · split <;> simp [Memory.get, h]
    · split
      · subst k; split <;> simp [Memory.get, h]
      · simp [Memory.get, ih]

theorem Memory.get_put_eq {m : Memory} {lo a : Nat} (b : Byte) (h : Memory.wfFrom lo m = true) :
    (m.put a b).get a = b := by
  induction m generalizing lo with
  | nil => simp only [Memory.put]; split <;> simp_all [Memory.get]
  | cons kc m ih =>
    obtain ⟨k, c⟩ := kc
    simp only [Memory.wfFrom, Bool.and_eq_true, decide_eq_true_eq] at h
    simp only [Memory.put]
    split
    · split
      · next hb =>
        rw [Memory.get, if_neg (by omega), Memory.get_of_lt h.2 (by omega), hb]
      · simp [Memory.get]
    · split
      · subst k
        split
        · next hb => rw [Memory.get_of_lt h.2 (by omega), hb]
        · simp [Memory.get]
      · rw [Memory.get, if_neg (by assumption)]
        exact ih h.2

theorem Memory.wfFrom_put {m : Memory} {lo a : Nat} (b : Byte) (h : Memory.wfFrom lo m = true)
    (hlo : lo ≤ a) (ha : a < Config.memSize) : Memory.wfFrom lo (m.put a b) = true := by
  induction m generalizing lo with
  | nil => simp only [Memory.put]; split <;> simp_all [Memory.wfFrom]
  | cons kc m ih =>
    obtain ⟨k, c⟩ := kc
    have hh := h
    simp only [Memory.wfFrom, Bool.and_eq_true, decide_eq_true_eq] at h
    simp only [Memory.put]
    split
    · split
      · exact hh
      · next hb =>
        simp only [Memory.wfFrom, Bool.and_eq_true, decide_eq_true_eq, bne_iff_ne]
        exact ⟨⟨⟨hlo, ha⟩, hb⟩, ⟨⟨by omega, h.1.1.2⟩, by simpa using h.1.2⟩, h.2⟩
    · split
      · subst k
        split
        · exact Memory.wfFrom_mono h.2 (by omega)
        · next hb =>
          simp only [Memory.wfFrom, Bool.and_eq_true, decide_eq_true_eq, bne_iff_ne]
          exact ⟨⟨⟨hlo, ha⟩, hb⟩, h.2⟩
      · simp only [Memory.wfFrom, Bool.and_eq_true, decide_eq_true_eq]
        exact ⟨h.1, ih h.2 (by omega)⟩

/-- A write leaves every other address alone. -/
@[simp] theorem Memory.get_set_ne (m : Memory) {a a' : Nat} (b : Byte) (h : a' ≠ a) :
    (m.set a b).get a' = m.get a' := by
  unfold Memory.set; split
  · exact Memory.get_put_ne m b h
  · rfl

/-- A read after a write to the same address gives the value written. -/
theorem Memory.get_set_eq {m : Memory} {a : Nat} (b : Byte) (h : m.wf = true) (ha : a ≤ 4095) :
    (m.set a b).get a = b := by
  rw [Memory.set, if_pos (by simp only [Config.memSize]; omega)]
  exact Memory.get_put_eq b h

/-- A write keeps the canonical form. -/
theorem Memory.set_wf {m : Memory} (a : Nat) (b : Byte) (h : m.wf = true) : (m.set a b).wf = true := by
  unfold Memory.set; split
  · exact Memory.wfFrom_put b h (Nat.zero_le _) (by assumption)
  · exact h

theorem Memory.nil_wf : Memory.wf [] = true := rfl

/-- A run of writes keeps the canonical form. -/
theorem Memory.setBytes_wf {m : Memory} (a : Nat) (bs : List Byte) (h : m.wf = true) :
    (Memory.setBytes m a bs).wf = true := by
  induction bs generalizing m a with
  | nil => exact h
  | cons b bs ih => exact ih (a + 1) (Memory.set_wf a b h)

/-- What a run of writes leaves at every address. -/
theorem Memory.get_setBytes {m : Memory} {a : Nat} {bs : List Byte} (h : m.wf = true)
    (ha : a + bs.length ≤ Config.memSize) (a' : Nat) :
    (Memory.setBytes m a bs).get a' =
      if h' : a ≤ a' ∧ a' < a + bs.length then bs[a' - a]'(by omega) else m.get a' := by
  induction bs generalizing m a with
  | nil => rw [dif_neg (by simp)]; rfl
  | cons b bs ih =>
    simp only [List.length_cons, Config.memSize] at ha ⊢
    rw [Memory.setBytes, ih (Memory.set_wf a b h) (by simp only [Config.memSize]; omega)]
    by_cases e : a' = a
    · subst e
      rw [dif_neg (by omega), dif_pos (by omega), Memory.get_set_eq b h (by omega)]
      simp
    · by_cases c : a + 1 ≤ a' ∧ a' < a + 1 + bs.length
      · rw [dif_pos c, dif_pos (by omega)]
        obtain ⟨d, hd⟩ : ∃ d, a' - a = d + 1 := ⟨a' - a - 1, by omega⟩
        have : a' - (a + 1) = d := by omega
        simp [hd, this]
      · rw [dif_neg c, dif_neg (by omega), Memory.get_set_ne m b e]

theorem Memory.tabulate_wfFrom (f : Nat → Byte) (n a : Nat) (h : a + n ≤ Config.memSize) :
    Memory.wfFrom a (Memory.tabulate f n a) = true := by
  induction n generalizing a with
  | zero => rfl
  | succ n ih =>
    simp only [Memory.tabulate]
    split
    · exact Memory.wfFrom_mono (ih (a + 1) (by omega)) (by omega)
    · next hb =>
      simp only [Memory.wfFrom, Bool.and_eq_true, decide_eq_true_eq, bne_iff_ne]
      exact ⟨⟨⟨by omega, by omega⟩, hb⟩, ih (a + 1) (by omega)⟩

/-- A tabulated memory is canonical. -/
theorem Memory.tabulate_wf (f : Nat → Byte) : (Memory.tabulate f Config.memSize 0).wf = true :=
  Memory.tabulate_wfFrom f _ 0 (by simp)

/-- Equal contents are equal lists, for canonical lists. -/
theorem Memory.wfFrom_ext {m m' : Memory} {lo : Nat} (h : Memory.wfFrom lo m = true)
    (h' : Memory.wfFrom lo m' = true) (e : ∀ a, m.get a = m'.get a) : m = m' := by
  induction m generalizing m' lo with
  | nil =>
    cases m' with
    | nil => rfl
    | cons kb m' =>
      simp only [Memory.wfFrom, Bool.and_eq_true, bne_iff_ne] at h'
      have := e kb.1
      simp only [Memory.get, if_true] at this
      exact absurd this.symm h'.1.2
  | cons kb m ih =>
    obtain ⟨k, b⟩ := kb
    cases m' with
    | nil =>
      simp only [Memory.wfFrom, Bool.and_eq_true, bne_iff_ne] at h
      have := e k
      simp only [Memory.get, if_true] at this
      exact absurd this h.1.2
    | cons kb' m' =>
      obtain ⟨k', b'⟩ := kb'
      simp only [Memory.wfFrom, Bool.and_eq_true, decide_eq_true_eq, bne_iff_ne] at h h'
      have hk : k = k' := by
        rcases Nat.lt_trichotomy k k' with l | l | l
        · have := e k
          rw [Memory.get, if_pos rfl, Memory.get, if_neg (by omega), Memory.get_of_lt h'.2 (by omega)] at this
          exact absurd this h.1.2
        · exact l
        · have := e k'
          rw [Memory.get, if_neg (by omega), Memory.get_of_lt h.2 (by omega), Memory.get, if_pos rfl] at this
          exact absurd this.symm h'.1.2
      subst hk
      have hb : b = b' := by simpa [Memory.get] using e k
      subst hb
      congr 1
      refine ih h.2 h'.2 fun a => ?_
      by_cases ha : a = k
      · rw [Memory.get_of_lt h.2 (by omega), Memory.get_of_lt h'.2 (by omega)]
      · simpa [Memory.get, ha] using e a

theorem Memory.wf_ext {m m' : Memory} (h : m.wf = true) (h' : m'.wf = true)
    (e : ∀ a, m.get a = m'.get a) : m = m' := Memory.wfFrom_ext h h' e

end Sys2Proof.Machine
end

