-- ==== Sys2Proof/Laws/Ops.lean ====
section
/-! SUPPORT. What each shared operation can do, said once: stack, fetch, loads and stores of a block, keys, fault entry,
reset and load. -/

namespace Sys2Proof.Machine

/-- A push answers exactly when fewer than 16 addresses are held. -/
theorem State.push_eq_none (s : State) (w : Word) : s.push w = none ↔ s.sp.val = 16 := by
  unfold State.push
  split <;> simp <;> omega

/-- What a push leaves. -/
theorem State.push_eq_some {s t : State} {w : Word} (h : s.push w = some t) :
    ∃ h' : s.sp.val < 16, t = { s with stack := s.stack.set s.sp.val w h', sp := ⟨s.sp.val + 1, by omega⟩ } := by
  unfold State.push at h
  split at h
  · next h' => exact ⟨h', (Option.some.inj h).symm⟩
  · exact absurd h (by simp)

/-- A pop answers exactly when some address is held. -/
theorem State.pop_eq_none (s : State) : s.pop = none ↔ s.sp.val = 0 := by
  unfold State.pop
  split <;> simp <;> omega

/-- What a pop answers. -/
theorem State.pop_eq_some {s t : State} {w : Word} (h : s.pop = some (w, t)) :
    0 < s.sp.val ∧ w = s.stack[s.sp.val - 1]'(by omega) ∧ t = { s with sp := ⟨s.sp.val - 1, by omega⟩ } := by
  unfold State.pop at h
  split at h
  · next h' =>
    obtain ⟨rfl, rfl⟩ := Prod.mk.inj (Option.some.inj h)
    exact ⟨h', rfl, rfl⟩
  · exact absurd h (by simp)

/-- A fetch answers nothing exactly when `PC + 1` is past memory. -/
theorem State.fetch_eq_none (s : State) : s.fetch = none ↔ 4095 < s.pc.toNat + 1 := by
  unfold State.fetch
  split <;> simp <;> omega

/-- The word a fetch answers. -/
theorem State.fetch_eq_some {s : State} (h : s.pc.toNat + 1 ≤ 4095) :
    s.fetch = some (wordOfBytes (s.mem.get s.pc.toNat) (s.mem.get (s.pc.toNat + 1))) := by
  rw [State.fetch, if_pos h]; rfl

theorem mem_allRegs (r : RegIx) : r ∈ allRegs := by
  revert r; decide

theorem allRegs_nodup : allRegs.Nodup := by decide

theorem mem_regsUpTo (x r : RegIx) : r ∈ regsUpTo x ↔ r ≤ x := by
  simp [regsUpTo, mem_allRegs]

theorem regsUpTo_nodup (x : RegIx) : (regsUpTo x).Nodup := allRegs_nodup.filter _

/-- A block of stores changes memory alone. -/
theorem State.foldl_writeByte (ks : List RegIx) (f : RegIx → Nat) (g : RegIx → Byte) (s : State) :
    ks.foldl (fun t k => t.writeByte (f k) (g k)) s =
      { s with mem := ks.foldl (fun m k => m.set (f k) (g k)) s.mem } := by
  induction ks generalizing s with
  | nil => rfl
  | cons k ks ih => simp only [List.foldl_cons, ih]; rfl

theorem Memory.foldl_set_wf (ks : List RegIx) (f : RegIx → Nat) (g : RegIx → Byte) {m : Memory}
    (h : m.wf = true) : (ks.foldl (fun m k => m.set (f k) (g k)) m).wf = true := by
  induction ks generalizing m with
  | nil => exact h
  | cons k ks ih => exact ih (Memory.set_wf _ _ h)

/-- A block of stores leaves every other address alone. -/
theorem Memory.get_foldl_set_ne (ks : List RegIx) (f : RegIx → Nat) (g : RegIx → Byte) (m : Memory)
    {a : Nat} (h : ∀ k ∈ ks, a ≠ f k) : (ks.foldl (fun m k => m.set (f k) (g k)) m).get a = m.get a := by
  induction ks generalizing m with
  | nil => rfl
  | cons k ks ih =>
    rw [List.foldl_cons, ih _ fun j hj => h j (List.mem_cons_of_mem _ hj),
      Memory.get_set_ne _ _ (h k List.mem_cons_self)]

/-- A block of stores at different addresses stores each byte at its address. -/
theorem Memory.get_foldl_set_eq {ks : List RegIx} (hn : ks.Nodup) (f : RegIx → Nat) (g : RegIx → Byte)
    {m : Memory} (hm : m.wf = true) (hinj : ∀ j k, f j = f k → j = k) (hf : ∀ k ∈ ks, f k ≤ 4095)
    {k : RegIx} (hk : k ∈ ks) : (ks.foldl (fun m k => m.set (f k) (g k)) m).get (f k) = g k := by
  induction ks generalizing m with
  | nil => exact absurd hk (by simp)
  | cons j ks ih =>
    rw [List.foldl_cons]
    rw [List.nodup_cons] at hn
    rcases List.mem_cons.1 hk with rfl | hk'
    · rw [Memory.get_foldl_set_ne _ _ _ _ fun i hi e => hn.1 ((hinj k i e).symm ▸ hi),
        Memory.get_set_eq _ hm (hf _ List.mem_cons_self)]
    · exact ih hn.2 (Memory.set_wf _ _ hm) (fun i hi => hf i (List.mem_cons_of_mem _ hi)) hk'

/-- FX55's block of stores as one update of memory. -/
theorem State.storeRegs_eq (x : RegIx) (s : State) :
    s.storeRegs x =
      { s with mem := (regsUpTo x).foldl (fun m k => m.set (s.i.toNat + k.val) s.v[k]) s.mem } :=
  State.foldl_writeByte _ _ _ s

/-- A block of register writes changes `V` and `CHG` alone. -/
theorem State.foldl_writeV (ks : List RegIx) (g : RegIx → Byte) (s : State) :
    ∃ v' chg', ks.foldl (fun t k => t.writeV k (g k)) s = { s with v := v', chg := chg' } ∧
      ∀ r : RegIx, (r ∈ ks → v'[r] = g r ∧ chg'[r] = true) ∧ (r ∉ ks → v'[r] = s.v[r] ∧ chg'[r] = s.chg[r]) := by
  induction ks generalizing s with
  | nil => exact ⟨s.v, s.chg, rfl, fun r => ⟨fun h => absurd h (by simp), fun _ => ⟨rfl, rfl⟩⟩⟩
  | cons k ks ih =>
    obtain ⟨v', chg', e, h⟩ := ih (s.writeV k (g k))
    refine ⟨v', chg', e, fun r => ⟨fun hr => ?_, fun hr => ?_⟩⟩
    · by_cases hk : r ∈ ks
      · exact (h r).1 hk
      · obtain rfl : r = k := (List.mem_cons.1 hr).resolve_right hk
        have := (h r).2 hk
        rwa [State.writeV_get, State.writeV_chg_get, if_pos rfl, if_pos rfl] at this
    · rw [List.mem_cons, not_or] at hr
      have := (h r).2 hr.2
      rwa [State.writeV_get, State.writeV_chg_get, if_neg hr.1, if_neg hr.1] at this

/-- FX65's block of loads: `V[0..x]` and their changed flags, and nothing else. -/
theorem State.loadRegs_eq (x : RegIx) (s : State) :
    ∃ v' chg', s.loadRegs x = { s with v := v', chg := chg' } ∧
      ∀ r : RegIx, (r ≤ x → v'[r] = s.mem.get (s.i.toNat + r.val) ∧ chg'[r] = true) ∧
        (¬ r ≤ x → v'[r] = s.v[r] ∧ chg'[r] = s.chg[r]) := by
  obtain ⟨v', chg', e, h⟩ := State.foldl_writeV (regsUpTo x) (fun k => s.readByte (s.ea k.val)) s
  exact ⟨v', chg', e, fun r => by simpa only [mem_regsUpTo, State.readByte_eq, State.ea_eq] using h r⟩

/-- A key number is a key exactly up to 15. -/
theorem keyOf_eq_none (b : Byte) : keyOf b = none ↔ 15 < b.toNat := by
  unfold keyOf
  split <;> simp <;> omega

theorem keyOf_eq_some (b : Byte) (k : KeyIx) : keyOf b = some k ↔ k.val = b.toNat := by
  unfold keyOf
  split
  · simp [Fin.ext_iff, eq_comm]
  · simp; omega

theorem mem_allKeys (k : KeyIx) : k ∈ allKeys := by
  revert k; decide

/-- No lowest key exactly when no key is pressed. -/
theorem State.lowestKey_eq_none (s : State) : s.lowestKey = none ↔ ∀ k : KeyIx, s.key[k] = false := by
  simp only [State.lowestKey, List.find?_eq_none, mem_allKeys, true_implies, Bool.not_eq_true]

/-- The lowest key is pressed, and none below it is. -/
theorem State.lowestKey_eq_some {s : State} {k : KeyIx} (h : s.lowestKey = some k) :
    s.key[k] = true ∧ ∀ j : KeyIx, j < k → s.key[j] = false := by
  obtain ⟨hk, as, bs, e, hp⟩ := List.find?_eq_some_iff_append.1 h
  refine ⟨hk, fun j hj => ?_⟩
  have hsort : (as ++ k :: bs).Pairwise (· < ·) := e ▸ (by decide : allKeys.Pairwise (· < ·))
  have hm : j ∈ as ++ k :: bs := e ▸ mem_allKeys j
  rcases List.mem_append.1 hm with m | m
  · simpa using hp j m
  · rcases List.mem_cons.1 m with rfl | m'
    · exact absurd hj (lt_irrefl _)
    · have := (List.pairwise_cons.1 (List.pairwise_append.1 hsort).2.1).1 j m'
      exact absurd hj (lt_asymm this)

/-- Fault entry keeps memory. -/
theorem State.raise_readByte (s : State) (c : Cause) (a : Nat) : (s.raise c).readByte a = s.readByte a := rfl

/-- A load answers one of two states, by the length of the ROM. -/
theorem State.resetLoad_cases (table : FontTable) (rom : List Byte) (s : State) :
    (rom.length ≤ 3584 ∧ s.resetLoad table rom = s.loaded table rom) ∨
    (3584 < rom.length ∧ s.resetLoad table rom = s.loadFailed) := by
  have hmax : Config.romMax = 3584 := rfl
  rcases Nat.lt_or_ge 3584 rom.length with h | h
  · exact .inr ⟨h, if_neg (by omega)⟩
  · exact .inl ⟨h, if_pos (by omega)⟩

/-- Beyond the font every cell is zero at reset. -/
theorem Memory.resetByte_of_le {a : Nat} (h : 80 ≤ a) : Memory.resetByte a = 0 := by
  have hl : defaultFont.length ≤ a := h
  rw [Memory.resetByte, List.getD_eq_getElem?_getD, List.getElem?_eq_none hl]; rfl

theorem Memory.withFont_wf (table : FontTable) : (Memory.withFont table).wf = true :=
  Memory.setBytes_wf _ _ Memory.nil_wf

/-- What the memory of a font table holds. -/
theorem Memory.get_withFont (table : FontTable) (a : Nat) :
    (Memory.withFont table).get a = if h : a < 80 then table[a] else 0 := by
  have g := Memory.get_setBytes (a := Config.fontBase) (bs := table.toList) Memory.nil_wf
    (by rw [Vector.length_toList]; decide) a
  rw [Memory.withFont, g]
  have hl : table.toList.length = 80 := Vector.length_toList
  by_cases h : a < 80
  · rw [dif_pos ⟨Nat.zero_le a, by rw [hl]; simpa [Config.fontBase] using h⟩, dif_pos h]
    simp [Config.fontBase]
  · rw [dif_neg (by rw [hl]; simpa [Config.fontBase] using h), dif_neg h]
    exact Memory.resetByte_of_le (by omega)

/-- What a load leaves at every address (R231). -/
theorem State.loaded_readByte (table : FontTable) {rom : List Byte} (s : State) (h : rom.length ≤ 3584) (a : Nat) :
    (s.loaded table rom).readByte a =
      if h' : 512 ≤ a ∧ a < 512 + rom.length then rom[a - 512]'(by omega)
      else if h'' : a < 80 then table[a] else 0 := by
  refine (Memory.get_setBytes (a := 512) (Memory.withFont_wf table) (by simp only [Config.memSize]; omega) a).trans ?_
  split
  · rfl
  · exact Memory.get_withFont table a

/-- A loaded memory is canonical. -/
theorem State.loaded_wf (table : FontTable) (rom : List Byte) (s : State) : (s.loaded table rom).mem.wf = true :=
  Memory.setBytes_wf _ _ (Memory.withFont_wf table)

/-- The memory of a failed load is canonical. -/
theorem State.loadFailed_wf (s : State) : s.loadFailed.mem.wf = true :=
  Memory.tabulate_wf fun a => (Config.unspecified s.draws (.mem a)).setWidth 8

/-- With the default table, nothing is listed. -/
theorem Memory.withFont_default : Memory.withFont defaultTable = [] := by decide +kernel

/-- The state at reset is that of a core with the default table. -/
theorem State.reset_eq_resetWith : State.reset = State.resetWith defaultTable := by
  rw [State.resetWith, Memory.withFont_default]; rfl

/-- The state at reset is a load of the empty ROM with the default table. -/
theorem State.reset_eq_loaded : State.reset = State.reset.loaded defaultTable [] := by
  rw [State.loaded, ← State.reset_eq_resetWith]; rfl

end Sys2Proof.Machine
end

