-- ==== Sys2Proof/Laws/Exec.lean ====
section
/-! SUPPORT. One lemma per instruction: what `exec` answers, as a chain of the named updates. -/

namespace Sys2Proof.Machine

variable (s : State) (x y : RegIx) (nn : Byte) (nnn : Addr)

/-! Instructions that answer in one way. -/

theorem exec_op00E0 :
    exec .op00E0 s = .next (((s.setDisp (Vector.replicate 2048 false)).emit .redraw).setPc (s.pc + 2)) := rfl

theorem exec_op0NNN : exec (.op0NNN nnn) s = .next (s.setPc (s.pc + 2)) := rfl

theorem exec_op1NNN : exec (.op1NNN nnn) s = .next (s.setPc (zextAddr nnn)) := rfl

theorem exec_op3XNN : exec (.op3XNN x nn) s = .next (s.setPc (if s.v[x] == nn then s.pc + 4 else s.pc + 2)) := rfl

theorem exec_op4XNN : exec (.op4XNN x nn) s = .next (s.setPc (if s.v[x] != nn then s.pc + 4 else s.pc + 2)) := rfl

theorem exec_op5XY0 : exec (.op5XY0 x y) s = .next (s.setPc (if s.v[x] == s.v[y] then s.pc + 4 else s.pc + 2)) := rfl

theorem exec_op9XY0 : exec (.op9XY0 x y) s = .next (s.setPc (if s.v[x] != s.v[y] then s.pc + 4 else s.pc + 2)) := rfl

theorem exec_opBNNN :
    exec (.opBNNN nnn) s = .next (s.setPc (zextAddr nnn + zextByte s.v[(0 : RegIx)])) := rfl

theorem exec_op6XNN : exec (.op6XNN x nn) s = .next ((s.writeV x nn).setPc (s.pc + 2)) := rfl

theorem exec_op7XNN : exec (.op7XNN x nn) s = .next ((s.writeV x (sumByte s.v[x] nn)).setPc (s.pc + 2)) := rfl

theorem exec_op8XY0 : exec (.op8XY0 x y) s = .next ((s.writeV x s.v[y]).setPc (s.pc + 2)) := rfl

theorem exec_op8XY1 : exec (.op8XY1 x y) s = .next ((s.writeV x (s.v[x] ||| s.v[y])).setPc (s.pc + 2)) := rfl

theorem exec_op8XY2 : exec (.op8XY2 x y) s = .next ((s.writeV x (s.v[x] &&& s.v[y])).setPc (s.pc + 2)) := rfl

theorem exec_op8XY3 : exec (.op8XY3 x y) s = .next ((s.writeV x (s.v[x] ^^^ s.v[y])).setPc (s.pc + 2)) := rfl

theorem exec_op8XY4 : exec (.op8XY4 x y) s =
    .next ((s.writeWithFlag x (sumByte s.v[x] s.v[y]) (carryOut s.v[x] s.v[y])).setPc (s.pc + 2)) := rfl

theorem exec_op8XY5 : exec (.op8XY5 x y) s =
    .next ((s.writeWithFlag x (diffByte s.v[x] s.v[y]) (noBorrow s.v[x] s.v[y])).setPc (s.pc + 2)) := rfl

theorem exec_op8XY6 : exec (.op8XY6 x y) s =
    .next ((s.writeWithFlag x (shrByte s.v[x]) (shrOut s.v[x])).setPc (s.pc + 2)) := rfl

theorem exec_op8XY7 : exec (.op8XY7 x y) s =
    .next ((s.writeWithFlag x (diffByte s.v[y] s.v[x]) (noBorrow s.v[y] s.v[x])).setPc (s.pc + 2)) := rfl

theorem exec_op8XYE : exec (.op8XYE x y) s =
    .next ((s.writeWithFlag x (shlByte s.v[x]) (shlOut s.v[x])).setPc (s.pc + 2)) := rfl

theorem exec_opCXNN : exec (.opCXNN x nn) s =
    .next ((s.countDraw.writeV x (Config.rnd s.draws &&& nn)).setPc (s.pc + 2)) := rfl

theorem exec_opANNN : exec (.opANNN nnn) s = .next ((s.setI (zextAddr nnn)).setPc (s.pc + 2)) := rfl

theorem exec_opFX1E : exec (.opFX1E x) s = .next ((s.setI (s.i + zextByte s.v[x])).setPc (s.pc + 2)) := rfl

theorem exec_opFX29 : exec (.opFX29 x) s = .next ((s.setI (glyphAddr s.v[x])).setPc (s.pc + 2)) := rfl

theorem exec_opFX07 : exec (.opFX07 x) s = .next ((s.writeV x s.dt).setPc (s.pc + 2)) := rfl

theorem exec_opFX15 : exec (.opFX15 x) s = .next ((s.setDt s.v[x]).setPc (s.pc + 2)) := rfl

theorem exec_opFX18 : exec (.opFX18 x) s = .next ((s.setSt s.v[x]).setPc (s.pc + 2)) := rfl

/-! Instructions that answer by cases. -/

variable {s} {x} {y} {t : State}

theorem exec_op00EE_of_pop {w : Word} (h : s.pop = some (w, t)) : exec .op00EE s = .next (t.setPc (w + 2)) := by
  simp [exec, exec00EE, h]

theorem exec_op00EE_of_empty (h : s.sp.val = 0) : exec .op00EE s = .next (s.raise .stackUnderflow) := by
  simp [exec, exec00EE, (State.pop_eq_none s).2 h]

theorem exec_op2NNN_of_push (h : s.push s.pc = some t) :
    exec (.op2NNN nnn) s = .next (t.setPc (zextAddr nnn)) := by
  simp [exec, exec2NNN, h]

theorem exec_op2NNN_of_full (h : s.sp.val = 16) : exec (.op2NNN nnn) s = .next (s.raise .stackOverflow) := by
  simp [exec, exec2NNN, (State.push_eq_none s s.pc).2 h]

theorem exec_opFX33_of_inside (h : s.i.toNat + 2 ≤ 4095) : exec (.opFX33 x) s =
    .next ((((s.writeByte (s.ea 0) (hundreds s.v[x])).writeByte (s.ea 1) (tens s.v[x])).writeByte
      (s.ea 2) (ones s.v[x])).setPc (s.pc + 2)) :=
  if_neg (by simpa using h)

theorem exec_opFX33_of_outside (h : 4095 < s.i.toNat + 2) : exec (.opFX33 x) s = .next (s.raise .memFault) :=
  if_pos (by simpa using h)

theorem exec_opFX55_of_inside (h : s.i.toNat + x.val ≤ 4095) :
    exec (.opFX55 x) s = .next ((s.storeRegs x).setPc (s.pc + 2)) :=
  (if_neg (by simpa using h)).trans (by rw [State.storeRegs_eq]; rfl)

theorem exec_opFX55_of_outside (h : 4095 < s.i.toNat + x.val) : exec (.opFX55 x) s = .next (s.raise .memFault) :=
  if_pos (by simpa using h)

theorem exec_opFX65_of_inside (h : s.i.toNat + x.val ≤ 4095) :
    exec (.opFX65 x) s = .next ((s.loadRegs x).setPc (s.pc + 2)) :=
  (if_neg (by simpa using h)).trans (by obtain ⟨_, _, e, _⟩ := s.loadRegs_eq x; rw [e]; rfl)

theorem exec_opFX65_of_outside (h : 4095 < s.i.toNat + x.val) : exec (.opFX65 x) s = .next (s.raise .memFault) :=
  if_pos (by simpa using h)

/-- DXYN's bound, as the rule words it (R162). -/
theorem State.spriteOutOfMemory_eq (s : State) (n : Nat) :
    s.spriteOutOfMemory n = true ↔ 0 < n ∧ 4095 < s.i.toNat + n - 1 := by
  simp only [State.spriteOutOfMemory, Bool.and_eq_true, decide_eq_true_eq, outOfMemory_eq_true, State.ea_eq]
  omega

theorem exec_opDXYN_of_inside {n : Nibble} (h : ¬ (0 < n.toNat ∧ 4095 < s.i.toNat + n.toNat - 1)) :
    exec (.opDXYN x y n) s =
      .next ((((s.setDisp (s.blit s.v[x] s.v[y] n.toNat).disp).writeV vf
        (flagByte (s.blit s.v[x] s.v[y] n.toNat).hit)).emit .redraw).setPc (s.pc + 2)) :=
  if_neg (mt (State.spriteOutOfMemory_eq s n.toNat).1 h)

theorem exec_opDXYN_of_outside {n : Nibble} (h : 0 < n.toNat ∧ 4095 < s.i.toNat + n.toNat - 1) :
    exec (.opDXYN x y n) s = .next (s.raise .memFault) :=
  if_pos ((State.spriteOutOfMemory_eq s n.toNat).2 h)

theorem exec_opEX9E_of_key {k : KeyIx} (h : k.val = (s.v[x]).toNat) :
    exec (.opEX9E x) s = .next (s.setPc (if s.key[k] then s.pc + 4 else s.pc + 2)) := by
  simp only [exec, execEX9E, (keyOf_eq_some s.v[x] k).2 h]; rfl

theorem exec_opEX9E_of_none (h : 15 < (s.v[x]).toNat) : exec (.opEX9E x) s = .next (s.raise .keyIndexFault) := by
  simp only [exec, execEX9E, (keyOf_eq_none s.v[x]).2 h]

theorem exec_opEXA1_of_key {k : KeyIx} (h : k.val = (s.v[x]).toNat) :
    exec (.opEXA1 x) s = .next (s.setPc (if !s.key[k] then s.pc + 4 else s.pc + 2)) := by
  simp only [exec, execEXA1, (keyOf_eq_some s.v[x] k).2 h]; rfl

theorem exec_opEXA1_of_none (h : 15 < (s.v[x]).toNat) : exec (.opEXA1 x) s = .next (s.raise .keyIndexFault) := by
  simp only [exec, execEXA1, (keyOf_eq_none s.v[x]).2 h]

theorem exec_opFX0A_of_key {k : KeyIx} (h : s.lowestKey = some k) :
    exec (.opFX0A x) s = .next ((s.writeV x (BitVec.ofNat 8 k.val)).setPc (s.pc + 2)) := by
  simp only [exec, execFX0A, h]; rfl

theorem exec_opFX0A_of_none (h : ∀ k : KeyIx, s.key[k] = false) : exec (.opFX0A x) s = .next s := by
  simp only [exec, execFX0A, (State.lowestKey_eq_none s).2 h]

/-- No instruction breaks the canonical form of memory. -/
theorem exec_mem_wf {i : Instr} {s t : State} (hw : s.mem.wf = true) (e : exec i s = .next t) : t.mem.wf = true := by
  cases i
  case op00EE =>
    cases hp : s.pop with
    | none => rw [exec_op00EE_of_empty ((State.pop_eq_none s).1 hp)] at e; cases e; exact hw
    | some r => 
      obtain ⟨w, u⟩ := r
      rw [exec_op00EE_of_pop hp] at e; cases e; obtain ⟨_, _, rfl⟩ := State.pop_eq_some hp; exact hw
  case op2NNN nnn =>
    cases hp : s.push s.pc with
    | none => rw [exec_op2NNN_of_full _ ((State.push_eq_none s _).1 hp)] at e; cases e; exact hw
    | some r => 
      rw [exec_op2NNN_of_push _ hp] at e; cases e; obtain ⟨_, rfl⟩ := State.push_eq_some hp; exact hw
  case opDXYN x y n =>
    by_cases h : 0 < n.toNat ∧ 4095 < s.i.toNat + n.toNat - 1
    · rw [exec_opDXYN_of_outside h] at e; cases e; exact hw
    · rw [exec_opDXYN_of_inside h] at e; cases e; exact hw
  case opFX33 x =>
    by_cases h : 4095 < s.i.toNat + 2
    · rw [exec_opFX33_of_outside h] at e; cases e; exact hw
    · rw [exec_opFX33_of_inside (by omega)] at e; cases e; exact Memory.set_wf _ _ (Memory.set_wf _ _ (Memory.set_wf _ _ hw))
  case opFX55 x =>
    by_cases h : 4095 < s.i.toNat + x.val
    · rw [exec_opFX55_of_outside h] at e; cases e; exact hw
    · rw [exec_opFX55_of_inside (by omega), State.storeRegs_eq] at e; cases e; exact Memory.foldl_set_wf _ _ _ hw
  case opFX65 x =>
    by_cases h : 4095 < s.i.toNat + x.val
    · rw [exec_opFX65_of_outside h] at e; cases e; exact hw
    · obtain ⟨_, _, e', _⟩ := s.loadRegs_eq x
      rw [exec_opFX65_of_inside (by omega), e'] at e; cases e; exact hw
  case opEX9E x =>
    by_cases h : 15 < (s.v[x]).toNat
    · rw [exec_opEX9E_of_none h] at e; cases e; exact hw
    · rw [exec_opEX9E_of_key (k := ⟨(s.v[x]).toNat, by omega⟩) rfl] at e; cases e; exact hw
  case opEXA1 x =>
    by_cases h : 15 < (s.v[x]).toNat
    · rw [exec_opEXA1_of_none h] at e; cases e; exact hw
    · rw [exec_opEXA1_of_key (k := ⟨(s.v[x]).toNat, by omega⟩) rfl] at e; cases e; exact hw
  case opFX0A x =>
    cases e' : s.lowestKey with
    | none => rw [exec_opFX0A_of_none ((State.lowestKey_eq_none s).1 e')] at e; cases e; exact hw
    | some k => rw [exec_opFX0A_of_key e'] at e; cases e; exact hw
  all_goals (cases e; exact hw)

end Sys2Proof.Machine
end

