-- ==== Sys2Proof/Laws/Flags.lean ====
section
/-! SUPPORT. The arithmetic results as numbers, the flags as comparisons, and what a result with its flag leaves in the
registers. -/

namespace Sys2Proof.Machine

theorem toNat_sumByte (a b : Byte) : (sumByte a b).toNat = (a.toNat + b.toNat) % 256 := by
  simp [sumByte]

theorem toNat_diffByte (a b : Byte) : (diffByte a b).toNat = (a.toNat + 256 - b.toNat) % 256 := by
  have := a.isLt
  have := b.isLt
  simp only [diffByte, BitVec.toNat_ofInt]
  omega

theorem toNat_shrByte (a : Byte) : (shrByte a).toNat = a.toNat / 2 := by
  have := a.isLt
  simp only [shrByte, BitVec.toNat_ofNat]
  omega

theorem toNat_shlByte (a : Byte) : (shlByte a).toNat = 2 * a.toNat % 256 := by
  simp [shlByte]

theorem shrOut_eq (a : Byte) : shrOut a = decide (a.toNat % 2 = 1) := by
  simp [shrOut, BitVec.getLsbD, Nat.testBit_zero]

theorem shlOut_eq (a : Byte) : shlOut a = decide (a.toNat ≥ 128) := by
  have := a.isLt
  rw [shlOut, BitVec.getLsbD, Nat.testBit_eq_decide_div_mod_eq, decide_eq_decide]
  omega

@[simp] theorem flagByte_eq_one (c : Bool) : flagByte c = 1 ↔ c = true := by cases c <;> decide

theorem flagByte_zero_or_one (c : Bool) : flagByte c = 0 ∨ flagByte c = 1 := by cases c <;> decide

/-- The result stays in `V[x]` unless `x` is F. -/
theorem State.writeWithFlag_result (s : State) {x : RegIx} (h : x ≠ 15) (r : Byte) (c : Bool) :
    (s.writeWithFlag x r c).v[x] = r := by
  rw [State.writeWithFlag_eq, State.writeV_get, if_neg (show x ≠ vf from h), State.writeV_get, if_pos rfl]

/-- VF holds the flag, also when `x` is F (R133). -/
theorem State.writeWithFlag_flag (s : State) (x : RegIx) (r : Byte) (c : Bool) :
    (s.writeWithFlag x r c).v[(15 : RegIx)] = flagByte c := by
  rw [State.writeWithFlag_eq, State.writeV_get]; rfl

theorem toNat_zextAddr (nnn : Addr) : (zextAddr nnn).toNat = nnn.toNat := by
  have := nnn.isLt
  simp only [zextAddr, BitVec.toNat_setWidth]
  omega

theorem toNat_zextByte (b : Byte) : (zextByte b).toNat = b.toNat := by
  have := b.isLt
  simp only [zextByte, BitVec.toNat_setWidth]
  omega

theorem toNat_glyphAddr (b : Byte) : (glyphAddr b).toNat = 5 * (b.toNat % 16) := by
  simp only [glyphAddr, BitVec.toNat_ofNat]
  omega

theorem toNat_hundreds (b : Byte) : (hundreds b).toNat = b.toNat / 100 := by
  have := b.isLt
  simp only [hundreds, BitVec.toNat_ofNat]
  omega

theorem toNat_tens (b : Byte) : (tens b).toNat = b.toNat / 10 % 10 := by
  simp only [tens, BitVec.toNat_ofNat]
  omega

theorem toNat_ones (b : Byte) : (ones b).toNat = b.toNat % 10 := by
  simp only [ones, BitVec.toNat_ofNat]
  omega

end Sys2Proof.Machine
end

