-- ==== Sys2Proof/Laws/Frame.lean ====
section
/-! SUPPORT. The frame, built up along a chain of updates: each update keeps a frame that lists what it writes. -/

namespace Sys2Proof.Safety

open Sys2Proof.Machine

variable {regs : List RegIx} {parts : List Part} {n : Nat} {s t : State}

/-- Nothing changed. -/
theorem Keeps.refl : Keeps regs parts n s s := by
  constructor <;> intros <;> first | rfl | exact ⟨rfl, rfl⟩

/-- `PC` is in no frame. -/
theorem Keeps.setPc (h : Keeps regs parts n s t) (w : Word) : Keeps regs parts n s (t.setPc w) :=
  ⟨h.1, h.2, h.3, h.4, h.5, h.6, h.7, h.8, h.9, h.10, h.11, h.12, h.13, h.14, h.15⟩

/-- A register of the list may be written. -/
theorem Keeps.writeV (h : Keeps regs parts n s t) {x : RegIx} (hx : x ∈ regs) (b : Byte) :
    Keeps regs parts n s (t.writeV x b) :=
  { h with
    regs_kept := fun r hr => by
      have ne : r ≠ x := fun e => hr (e ▸ hx)
      rw [State.writeV_get, State.writeV_chg_get, if_neg ne, if_neg ne]
      exact h.1 r hr }

/-- A result with its flag writes the listed registers `x` and 15. -/
theorem Keeps.writeWithFlag (h : Keeps regs parts n s t) {x : RegIx} (hx : x ∈ regs) (hf : (15 : RegIx) ∈ regs)
    (r : Byte) (c : Bool) : Keeps regs parts n s (t.writeWithFlag x r c) :=
  (h.writeV hx r).writeV hf (flagByte c)

/-- A byte of the stored block may be written. -/
theorem Keeps.writeByte (h : Keeps regs parts n s t) {a : Nat} (ha : s.ea 0 ≤ a ∧ a < s.ea n) (b : Byte) :
    Keeps regs parts n s (t.writeByte a b) :=
  { h with
    memory_kept := fun a' ha' => by
      have ne : a' ≠ a := fun e => ha' (e ▸ ha)
      exact (Memory.get_set_ne t.mem b ne).trans (h.memory_kept a' ha') }

/-- A listed `i` may be written. -/
theorem Keeps.setI (h : Keeps regs parts n s t) (hp : Part.i ∈ parts) (w : Word) :
    Keeps regs parts n s (t.setI w) :=
  { h with i_kept := fun hn => absurd hp hn }

/-- A listed `dt` may be written. -/
theorem Keeps.setDt (h : Keeps regs parts n s t) (hp : Part.dt ∈ parts) (b : Byte) :
    Keeps regs parts n s (t.setDt b) :=
  { h with dt_kept := fun hn => absurd hp hn }

/-- A listed `st` may be written. -/
theorem Keeps.setSt (h : Keeps regs parts n s t) (hp : Part.st ∈ parts) (b : Byte) :
    Keeps regs parts n s (t.setSt b) :=
  { h with st_kept := fun hn => absurd hp hn }

/-- A listed `disp` may be written. -/
theorem Keeps.setDisp (h : Keeps regs parts n s t) (hp : Part.disp ∈ parts) (d : Vector Bool 2048) :
    Keeps regs parts n s (t.setDisp d) :=
  { h with disp_kept := fun hn => absurd hp hn }

/-- A listed `event` may be written. -/
theorem Keeps.emit (h : Keeps regs parts n s t) (hp : Part.event ∈ parts) (e : Event) :
    Keeps regs parts n s (t.emit e) :=
  { h with event_kept := fun hn => absurd hp hn }

/-- A listed `draws` may be written. -/
theorem Keeps.countDraw (h : Keeps regs parts n s t) (hp : Part.draws ∈ parts) :
    Keeps regs parts n s (t.countDraw) :=
  { h with draws_kept := fun hn => absurd hp hn }

/-- A block of listed registers may be written. -/
theorem Keeps.foldl_writeV (h : Keeps regs parts n s t) {ks : List RegIx} (hk : ∀ k ∈ ks, k ∈ regs)
    (g : RegIx → Byte) : Keeps regs parts n s (ks.foldl (fun u k => u.writeV k (g k)) t) := by
  induction ks generalizing t with
  | nil => exact h
  | cons k ks ih =>
    exact ih (h.writeV (hk k List.mem_cons_self) (g k)) fun j hj => hk j (List.mem_cons_of_mem _ hj)

/-- A block of bytes inside the stored block may be written. -/
theorem Keeps.foldl_writeByte (h : Keeps regs parts n s t) {ks : List RegIx} (f : RegIx → Nat) (g : RegIx → Byte)
    (hk : ∀ k ∈ ks, s.ea 0 ≤ f k ∧ f k < s.ea n) :
    Keeps regs parts n s (ks.foldl (fun u k => u.writeByte (f k) (g k)) t) := by
  induction ks generalizing t with
  | nil => exact h
  | cons k ks ih =>
    exact ih (h.writeByte (hk k List.mem_cons_self) (g k)) fun j hj => hk j (List.mem_cons_of_mem _ hj)

/-- The frame of a push. -/
theorem Keeps.push (hs : Part.stack ∈ parts) (hp : Part.sp ∈ parts) {w : Word} (h : s.push w = some t) :
    Keeps regs parts n s t := by
  obtain ⟨_, rfl⟩ := State.push_eq_some h
  exact { Keeps.refl (s := s) with
    stack_kept := fun hn => absurd hs hn
    sp_kept := fun hn => absurd hp hn }

/-- The frame of a pop. -/
theorem Keeps.pop (hp : Part.sp ∈ parts) {w : Word} (h : s.pop = some (w, t)) : Keeps regs parts n s t := by
  obtain ⟨_, _, rfl⟩ := State.pop_eq_some h
  exact { Keeps.refl (s := s) with sp_kept := fun hn => absurd hp hn }

/-- Fault entry is `State.raise`. -/
theorem faultTaken_raise (c : Cause) (s : State) : FaultTaken c s (s.raise c) := rfl

/-- Fault entry with a cause keeps the invariant. -/
theorem Inv.raise (h : Inv s) {c : Cause} (hc : c ≠ .none) : Inv (s.raise c) :=
  ⟨h.1, by simp [hc], by simp⟩

/-- A frame without stores or with canonical memory keeps the invariant. -/
theorem Inv.of_keeps (h : Inv s) (k : Keeps regs parts n s t) (hm : t.mem.wf = true) : Inv t := by
  refine ⟨hm, ?_, ?_⟩
  · rw [k.fault_kept.1, k.fault_kept.2]; exact h.2.1
  · rw [k.fault_kept.1, k.run_kept]; exact h.2.2

end Sys2Proof.Safety
end

