-- ==== Sys2Proof/Laws/PerInstr.lean ====
section
/-! SUPPORT. Statements about every instruction as syntax, one lemma per constructor. Family Row: the word of the instruction
selects the row of its own mnemonic in the opcode map (30_encoding.md R75). -/

namespace Sys2Proof.Laws.Row

/-- The encoded word selects the row of the map that carries the instruction's mnemonic. -/
def Statement (i : Instr) : Prop :=
  ∃ r ∈ opcodeMap, r.mnemonic = i.mnemonic ∧ r.selects (encode i) = true

/-! A word of a format, masked, is the word with its operand fields zero. -/

/-- A masked word is known bit by bit. -/
theorem and_eq {op mask pat : Word} (h : ∀ k, k < 16 → (op.getLsbD k && mask.getLsbD k) = pat.getLsbD k) :
    op &&& mask = pat :=
  BitVec.eq_of_getLsbD_eq fun k hk => by rw [BitVec.getLsbD_and]; exact h k hk

theorem selects_addr (m : String) (t : Nibble) (nnn : Addr) :
    OpcodeRow.selects ⟨m, 0xF000, encodeAddr t 0⟩ (encodeAddr t nnn) = true := by
  refine beq_iff_eq.2 (and_eq fun k hk => ?_)
  simp only [getLsbD_encodeAddr]
  interval_cases k <;> simp

theorem selects_xnn (m : String) (t : Nibble) (x : RegIx) (nn : Byte) :
    OpcodeRow.selects ⟨m, 0xF000, encodeXnn t 0 0⟩ (encodeXnn t x nn) = true := by
  refine beq_iff_eq.2 (and_eq fun k hk => ?_)
  simp only [getLsbD_encodeXnn]
  interval_cases k <;> simp

theorem selects_xsub (m : String) (t : Nibble) (x : RegIx) (nn : Byte) :
    OpcodeRow.selects ⟨m, 0xF0FF, encodeXnn t 0 nn⟩ (encodeXnn t x nn) = true := by
  refine beq_iff_eq.2 (and_eq fun k hk => ?_)
  simp only [getLsbD_encodeXnn]
  interval_cases k <;> simp

theorem selects_xyn (m : String) (t : Nibble) (x y : RegIx) (n : Nibble) :
    OpcodeRow.selects ⟨m, 0xF00F, encodeXyn t 0 0 n⟩ (encodeXyn t x y n) = true := by
  refine beq_iff_eq.2 (and_eq fun k hk => ?_)
  simp only [getLsbD_encodeXyn]
  interval_cases k <;> simp

theorem selects_xyn_any (m : String) (t : Nibble) (x y : RegIx) (n : Nibble) :
    OpcodeRow.selects ⟨m, 0xF000, encodeXyn t 0 0 0⟩ (encodeXyn t x y n) = true := by
  refine beq_iff_eq.2 (and_eq fun k hk => ?_)
  simp only [getLsbD_encodeXyn]
  interval_cases k <;> simp

/-! One lemma per constructor. -/

theorem op00E0 : Statement (.op00E0) :=
  ⟨⟨"00E0", 0xFFFF, 0x00E0⟩, by decide, rfl, by decide⟩

theorem op00EE : Statement (.op00EE) :=
  ⟨⟨"00EE", 0xFFFF, 0x00EE⟩, by decide, rfl, by decide⟩

theorem op0NNN (nnn : Addr) : Statement (.op0NNN nnn) :=
  ⟨⟨"0NNN", 0xF000, 0x0000⟩, by decide, rfl, selects_addr _ _ _⟩

theorem op1NNN (nnn : Addr) : Statement (.op1NNN nnn) :=
  ⟨⟨"1NNN", 0xF000, 0x1000⟩, by decide, rfl, selects_addr _ _ _⟩

theorem op2NNN (nnn : Addr) : Statement (.op2NNN nnn) :=
  ⟨⟨"2NNN", 0xF000, 0x2000⟩, by decide, rfl, selects_addr _ _ _⟩

theorem op3XNN (x : RegIx) (nn : Byte) : Statement (.op3XNN x nn) :=
  ⟨⟨"3XNN", 0xF000, 0x3000⟩, by decide, rfl, selects_xnn _ _ _ _⟩

theorem op4XNN (x : RegIx) (nn : Byte) : Statement (.op4XNN x nn) :=
  ⟨⟨"4XNN", 0xF000, 0x4000⟩, by decide, rfl, selects_xnn _ _ _ _⟩

theorem op5XY0 (x y : RegIx) : Statement (.op5XY0 x y) :=
  ⟨⟨"5XY0", 0xF00F, 0x5000⟩, by decide, rfl, selects_xyn _ _ _ _ _⟩

theorem op6XNN (x : RegIx) (nn : Byte) : Statement (.op6XNN x nn) :=
  ⟨⟨"6XNN", 0xF000, 0x6000⟩, by decide, rfl, selects_xnn _ _ _ _⟩

theorem op7XNN (x : RegIx) (nn : Byte) : Statement (.op7XNN x nn) :=
  ⟨⟨"7XNN", 0xF000, 0x7000⟩, by decide, rfl, selects_xnn _ _ _ _⟩

theorem op8XY0 (x y : RegIx) : Statement (.op8XY0 x y) :=
  ⟨⟨"8XY0", 0xF00F, 0x8000⟩, by decide, rfl, selects_xyn _ _ _ _ _⟩

theorem op8XY1 (x y : RegIx) : Statement (.op8XY1 x y) :=
  ⟨⟨"8XY1", 0xF00F, 0x8001⟩, by decide, rfl, selects_xyn _ _ _ _ _⟩

theorem op8XY2 (x y : RegIx) : Statement (.op8XY2 x y) :=
  ⟨⟨"8XY2", 0xF00F, 0x8002⟩, by decide, rfl, selects_xyn _ _ _ _ _⟩

theorem op8XY3 (x y : RegIx) : Statement (.op8XY3 x y) :=
  ⟨⟨"8XY3", 0xF00F, 0x8003⟩, by decide, rfl, selects_xyn _ _ _ _ _⟩

theorem op8XY4 (x y : RegIx) : Statement (.op8XY4 x y) :=
  ⟨⟨"8XY4", 0xF00F, 0x8004⟩, by decide, rfl, selects_xyn _ _ _ _ _⟩

theorem op8XY5 (x y : RegIx) : Statement (.op8XY5 x y) :=
  ⟨⟨"8XY5", 0xF00F, 0x8005⟩, by decide, rfl, selects_xyn _ _ _ _ _⟩

theorem op8XY6 (x y : RegIx) : Statement (.op8XY6 x y) :=
  ⟨⟨"8XY6", 0xF00F, 0x8006⟩, by decide, rfl, selects_xyn _ _ _ _ _⟩

theorem op8XY7 (x y : RegIx) : Statement (.op8XY7 x y) :=
  ⟨⟨"8XY7", 0xF00F, 0x8007⟩, by decide, rfl, selects_xyn _ _ _ _ _⟩

theorem op8XYE (x y : RegIx) : Statement (.op8XYE x y) :=
  ⟨⟨"8XYE", 0xF00F, 0x800E⟩, by decide, rfl, selects_xyn _ _ _ _ _⟩

theorem op9XY0 (x y : RegIx) : Statement (.op9XY0 x y) :=
  ⟨⟨"9XY0", 0xF00F, 0x9000⟩, by decide, rfl, selects_xyn _ _ _ _ _⟩

theorem opANNN (nnn : Addr) : Statement (.opANNN nnn) :=
  ⟨⟨"ANNN", 0xF000, 0xA000⟩, by decide, rfl, selects_addr _ _ _⟩

theorem opBNNN (nnn : Addr) : Statement (.opBNNN nnn) :=
  ⟨⟨"BNNN", 0xF000, 0xB000⟩, by decide, rfl, selects_addr _ _ _⟩

theorem opCXNN (x : RegIx) (nn : Byte) : Statement (.opCXNN x nn) :=
  ⟨⟨"CXNN", 0xF000, 0xC000⟩, by decide, rfl, selects_xnn _ _ _ _⟩

theorem opDXYN (x y : RegIx) (n : Nibble) : Statement (.opDXYN x y n) :=
  ⟨⟨"DXYN", 0xF000, 0xD000⟩, by decide, rfl, selects_xyn_any _ _ _ _ _⟩

theorem opEX9E (x : RegIx) : Statement (.opEX9E x) :=
  ⟨⟨"EX9E", 0xF0FF, 0xE09E⟩, by decide, rfl, selects_xsub _ _ _ _⟩

theorem opEXA1 (x : RegIx) : Statement (.opEXA1 x) :=
  ⟨⟨"EXA1", 0xF0FF, 0xE0A1⟩, by decide, rfl, selects_xsub _ _ _ _⟩

theorem opFX07 (x : RegIx) : Statement (.opFX07 x) :=
  ⟨⟨"FX07", 0xF0FF, 0xF007⟩, by decide, rfl, selects_xsub _ _ _ _⟩

theorem opFX0A (x : RegIx) : Statement (.opFX0A x) :=
  ⟨⟨"FX0A", 0xF0FF, 0xF00A⟩, by decide, rfl, selects_xsub _ _ _ _⟩

theorem opFX15 (x : RegIx) : Statement (.opFX15 x) :=
  ⟨⟨"FX15", 0xF0FF, 0xF015⟩, by decide, rfl, selects_xsub _ _ _ _⟩

theorem opFX18 (x : RegIx) : Statement (.opFX18 x) :=
  ⟨⟨"FX18", 0xF0FF, 0xF018⟩, by decide, rfl, selects_xsub _ _ _ _⟩

theorem opFX1E (x : RegIx) : Statement (.opFX1E x) :=
  ⟨⟨"FX1E", 0xF0FF, 0xF01E⟩, by decide, rfl, selects_xsub _ _ _ _⟩

theorem opFX29 (x : RegIx) : Statement (.opFX29 x) :=
  ⟨⟨"FX29", 0xF0FF, 0xF029⟩, by decide, rfl, selects_xsub _ _ _ _⟩

theorem opFX33 (x : RegIx) : Statement (.opFX33 x) :=
  ⟨⟨"FX33", 0xF0FF, 0xF033⟩, by decide, rfl, selects_xsub _ _ _ _⟩

theorem opFX55 (x : RegIx) : Statement (.opFX55 x) :=
  ⟨⟨"FX55", 0xF0FF, 0xF055⟩, by decide, rfl, selects_xsub _ _ _ _⟩

theorem opFX65 (x : RegIx) : Statement (.opFX65 x) :=
  ⟨⟨"FX65", 0xF0FF, 0xF065⟩, by decide, rfl, selects_xsub _ _ _ _⟩

end Sys2Proof.Laws.Row
end

