-- ==== Sys2Proof/Laws/Step.lean ====
section
/-! SUPPORT. What one step is, by the action taken and by the fetch. -/

namespace Sys2Proof.Machine

open Sys2Proof.Safety

/-- A step takes the oldest action still to come. -/
theorem step_of_cons {s : State} {a : Input} {rest : List Input} (h : s.schedule = a :: rest) :
    step s = act a (s.begin rest) := by
  simp [step, Config.keyAutoclear, takeStep, State.nextInput, h]

/-- With nothing listed a step is one `Step`. -/
theorem step_of_nil {s : State} (h : s.schedule = []) : step s = instrStep (s.begin []) := by
  simp [step, Config.keyAutoclear, takeStep, State.nextInput, h, act]

/-- A step in general: some action, taken after the begin of the step. -/
theorem step_eq_act (s : State) : step s = act s.nextInput (s.begin s.schedule.tail) := by
  simp [step, Config.keyAutoclear, takeStep]

/-- While faulted, `Step` changes nothing. -/
theorem instrStep_of_fault {s : State} (h : s.fault = true) : instrStep s = .next s := by
  simp [instrStep, h]

/-- Past memory, `Step` is a FetchFault. -/
theorem instrStep_of_past {s : State} (h : s.fault = false) (hp : 4095 < s.pc.toNat + 1) :
    instrStep s = .next (s.raise .fetchFault) := by
  simp [instrStep, h, (State.fetch_eq_none s).2 hp]

/-- Otherwise `Step` runs the word at `PC`. -/
theorem instrStep_of_fetch {s : State} (h : s.fault = false) (hp : s.pc.toNat + 1 ≤ 4095) :
    instrStep s = execWord (wordAt s) s := by
  simp only [instrStep, h, State.fetch_eq_some hp]; rfl

/-- A decoded word runs its instruction, with `OPC` written. -/
theorem execWord_of_ok {op : Word} {i : Instr} (s : State) (h : decodeWord op = .ok i) :
    execWord op s = exec i (s.latch op) := by
  rw [execWord, h]

/-- An unrecognized word is a logged no-op. -/
theorem execWord_of_error {op : Word} {e : Reject} (s : State) (h : decodeWord op = .error e) :
    execWord op s = .next (execUnrecognized op (s.latch op)) := by
  rw [execWord, h]

/-- On the instruction agent's turn the step is its `Step`. -/
theorem step_of_turn {s : State} {rest : List Input} (h : InstructionTurn s rest) :
    step s = instrStep (s.begin rest) := by
  rcases h with ⟨h, rfl⟩ | h | ⟨h, hr⟩
  · exact step_of_nil h
  · rw [step_of_cons h]; rfl
  · rw [step_of_cons h]; simp [act, instrTick, hr]

/-- A `Step` answers as it is, or as a FetchFault, or as the meaning of an instruction, or as an unrecognized word: nothing
else. -/
theorem instrStep_cases (s : State) :
    (s.fault = true ∧ instrStep s = .next s) ∨
    (s.fault = false ∧ 4095 < s.pc.toNat + 1 ∧ instrStep s = .next (s.raise .fetchFault)) ∨
    (s.fault = false ∧ s.pc.toNat + 1 ≤ 4095 ∧
      ((∃ i, decodeWord (wordAt s) = .ok i ∧ instrStep s = exec i (s.latch (wordAt s))) ∨
       ∃ e, decodeWord (wordAt s) = .error e ∧
        instrStep s = .next (execUnrecognized (wordAt s) (s.latch (wordAt s))))) := by
  cases hf : s.fault with
  | true => exact .inl ⟨rfl, instrStep_of_fault hf⟩
  | false =>
    rcases Nat.lt_or_ge 4095 (s.pc.toNat + 1) with hp | hp
    · exact .inr (.inl ⟨rfl, hp, instrStep_of_past hf hp⟩)
    · refine .inr (.inr ⟨rfl, hp, ?_⟩)
      rw [instrStep_of_fetch hf hp]
      cases hd : decodeWord (wordAt s) with
      | ok i => exact .inl ⟨i, rfl, execWord_of_ok s hd⟩
      | error e => exact .inr ⟨e, rfl, execWord_of_error s hd⟩

/-- An action answers with one of the agents' updates, or is the instruction agent's `Step`. -/
theorem act_cases (a : Input) (s : State) :
    (∃ table rom, a = .resetLoad table rom ∧ act a s = .next (s.resetLoad table rom)) ∨
    (a = .romUnreadable ∧ act a s = .next s.loadFailed) ∨
    (a = .run ∧ act a s = .next (runCommand s)) ∨
    (a = .stop ∧ act a s = .next (stopCommand s)) ∨
    (a = .instrTick ∧ s.run = false ∧ act a s = .next s) ∨
    ((a = .stepOnce ∨ a = .instrTick ∧ s.run = true) ∧ act a s = instrStep s) ∨
    (a = .timerTick ∧ act a s = .next (timerTick s)) ∨
    (∃ k down, a = .keyEvent k down ∧ act a s = .next (keyEvent k down s)) ∨
    (a = .readRegisters ∧ act a s = .next (readRegisters s)) := by
  cases a with
  | instrTick => cases hr : s.run <;> simp [act, instrTick, hr]
  | resetLoad table rom => exact .inl ⟨table, rom, rfl, rfl⟩
  | keyEvent k down => exact .inr (.inr (.inr (.inr (.inr (.inr (.inr (.inl ⟨k, down, rfl, rfl⟩)))))))
  | romUnreadable => simp [act, romUnreadable]
  | run => simp [act]
  | stop => simp [act]
  | stepOnce => simp [act]
  | timerTick => simp [act]
  | readRegisters => simp [act]

end Sys2Proof.Machine
end

