-- ==== Sys2Proof/Tests/Slice0.lean ====
section
/-! SUPPORT. Tests: ill-formed terms refused, a word decoded for every constructor, results of 95_test_vectors.md (named by
their ids), and for every obligation with hypotheses a concrete state that meets them. Expected values are the spec's. -/

namespace Sys2Proof.Tests

open Sys2Proof.Machine Sys2Proof.Safety

-- One theorem at a time: the kernel evaluations below need not stand in memory together.
set_option Elab.async false

/-! Helpers. -/

/-- What `f` reads of the next state; nothing for a fault or a refusal. -/
def after {α : Type} (o : Host.Outcome State Fault Refusal) (f : State → α) : Option α :=
  match o with
  | .next t => some (f t)
  | .fault _ => none
  | .refused _ => none

/-- The reset state with some registers set. -/
def regs (l : List (RegIx × Byte)) : State :=
  l.foldl (fun s p => { s with v := s.v.set p.1 p.2 }) State.reset

/-- `s` with bytes stored from `a` up. -/
def bytesAt (a : Nat) (bs : List Byte) (s : State) : State := { s with mem := Memory.setBytes s.mem a bs }

/-- `s` with the word `w` where the next step fetches. -/
def running (w : Nat) (s : State) : State := s.withFetchWord 16 w

/-- A faulted core whose next action is `a`. -/
def faulted (a : Input) : State := { (State.reset.raise .memFault) with dt := 5, schedule := [a] }

/-- The numbers, counted from `p`, of the entries that are true. -/
def litFrom : Nat → List Bool → List Nat
  | _, [] => []
  | p, b :: l => if b then p :: litFrom (p + 1) l else litFrom (p + 1) l

/-- The lit pixels. -/
def lit (s : State) : List Nat := litFrom 0 s.disp.toList

/-- The collision, `PC` and the event of a draw. -/
def drawn (s : State) : Byte × Word × Option Event := (s.v[(15 : RegIx)], s.pc, s.event)

/-! WellFormed (30_encoding.md R74: those two words are 00E0 and 00EE). -/

theorem test_illformed_0E0 : (Instr.op0NNN 0x0E0).wellFormed = false := by decide
theorem test_illformed_0EE : (Instr.op0NNN 0x0EE).wellFormed = false := by decide
theorem test_wellformed_legacy : (Instr.op0NNN 0x1E0).wellFormed = true := by decide

/-! Decoding: one word for every constructor, fields as the pattern column of R75 places them. -/

theorem test_decode_family_0 :
    decodeWord 0x00E0 = .ok .op00E0 ∧ decodeWord 0x00EE = .ok .op00EE ∧ decodeWord 0x00E1 = .ok (.op0NNN 0x0E1) ∧
    decodeWord 0x01E0 = .ok (.op0NNN 0x1E0) ∧ decodeWord 0x03EE = .ok (.op0NNN 0x3EE) := by decide
theorem test_decode_jumps :
    decodeWord 0x1ABC = .ok (.op1NNN 0xABC) ∧ decodeWord 0x2FFF = .ok (.op2NNN 0xFFF) ∧
    decodeWord 0xB301 = .ok (.opBNNN 0x301) := by decide
theorem test_decode_skips :
    decodeWord 0x3104 = .ok (.op3XNN 1 0x04) ∧ decodeWord 0x4A05 = .ok (.op4XNN 0xA 0x05) ∧
    decodeWord 0x5AB0 = .ok (.op5XY0 0xA 0xB) ∧ decodeWord 0x9AB0 = .ok (.op9XY0 0xA 0xB) := by decide
theorem test_decode_immediate :
    decodeWord 0x6A7F = .ok (.op6XNN 0xA 0x7F) ∧ decodeWord 0x71FF = .ok (.op7XNN 1 0xFF) ∧
    decodeWord 0xC20F = .ok (.opCXNN 2 0x0F) := by decide
theorem test_decode_family_8 :
    decodeWord 0x8AB0 = .ok (.op8XY0 0xA 0xB) ∧ decodeWord 0x8AB1 = .ok (.op8XY1 0xA 0xB) ∧
    decodeWord 0x8AB2 = .ok (.op8XY2 0xA 0xB) ∧ decodeWord 0x8AB3 = .ok (.op8XY3 0xA 0xB) ∧
    decodeWord 0x8AB4 = .ok (.op8XY4 0xA 0xB) ∧ decodeWord 0x8AB5 = .ok (.op8XY5 0xA 0xB) ∧
    decodeWord 0x8AB6 = .ok (.op8XY6 0xA 0xB) ∧ decodeWord 0x8AB7 = .ok (.op8XY7 0xA 0xB) ∧
    decodeWord 0x8ABE = .ok (.op8XYE 0xA 0xB) := by decide
theorem test_decode_index_draw :
    decodeWord 0xA20C = .ok (.opANNN 0x20C) ∧ decodeWord 0xD12A = .ok (.opDXYN 1 2 0xA) := by decide
theorem test_decode_keys :
    decodeWord 0xEA9E = .ok (.opEX9E 0xA) ∧ decodeWord 0xEBA1 = .ok (.opEXA1 0xB) := by decide
theorem test_decode_family_F :
    decodeWord 0xF107 = .ok (.opFX07 1) ∧ decodeWord 0xF30A = .ok (.opFX0A 3) ∧
    decodeWord 0xF415 = .ok (.opFX15 4) ∧ decodeWord 0xF518 = .ok (.opFX18 5) ∧
    decodeWord 0xF61E = .ok (.opFX1E 6) ∧ decodeWord 0xF729 = .ok (.opFX29 7) ∧
    decodeWord 0xF833 = .ok (.opFX33 8) ∧ decodeWord 0xF955 = .ok (.opFX55 9) ∧
    decodeWord 0xFA65 = .ok (.opFX65 0xA) := by decide
/-- Section 2.9. -/
theorem test_decode_unrecognized :
    decodeWord 0x500F = .error (.unrecognized 0x500F) ∧ decodeWord 0x9001 = .error (.unrecognized 0x9001) ∧
    decodeWord 0x8008 = .error (.unrecognized 0x8008) ∧ decodeWord 0x800F = .error (.unrecognized 0x800F) ∧
    decodeWord 0xE09F = .error (.unrecognized 0xE09F) ∧ decodeWord 0xF056 = .error (.unrecognized 0xF056) := by decide
/-- The high byte stands first (R55); one byte is no instruction. -/
theorem test_decode_bytes :
    decodeBytes [0x60, 0x05, 0x61] = .ok (.op6XNN 0 0x05, [0x61]) ∧ decodeBytes [0x60] = .error .truncated := by decide
/-- Numbered as the opcode table numbers bits. -/
theorem test_decode_table_word :
    decodeTableWord 16 0x8014 = some (.op8XY4 0 1) ∧ decodeTableWord 16 0xE000 = none := by decide

/-! Control flow (section 2.1). -/

/-- K3. -/
theorem test_legacy_call : after (exec (.op0NNN 0x123) State.reset) (fun t => (t.pc, t.event)) = some (0x202, none) := by
  decide +kernel
/-- K6. -/
theorem test_return : after (exec .op00EE { State.reset with sp := 1, stack := State.reset.stack.set 0 0x204 })
    (fun t => (t.sp.val, t.pc, t.stack[0])) = some (0, 0x206, 0x204) := by decide +kernel
/-- K2. -/
theorem test_return_underflow : after (step (running 0x00EE State.reset))
    (fun t => (t.faultView, t.run, t.sp.val, t.pc, t.opc)) = some ((true, 2), false, 0, 0x200, 0x00EE) := by decide +kernel
/-- K9. -/
theorem test_jump_odd : after (exec (.op1NNN 0x203) State.reset) (·.pc) = some 0x203 := by decide +kernel
/-- K10. -/
theorem test_call : after (exec (.op2NNN 0x20C) { State.reset with pc := 0x204 })
    (fun t => (t.stack[0], t.sp.val, t.pc)) = some (0x204, 1, 0x20C) := by decide +kernel
/-- K1, the seventeenth call. -/
theorem test_call_overflow : after (step (running 0x2222 { State.reset with sp := 16, pc := 0x220 }))
    (fun t => (t.faultView, t.sp.val, t.pc, t.opc)) = some ((true, 1), 16, 0x220, 0x2222) := by decide +kernel
/-- K11, K12. -/
theorem test_skip_equal : after (exec (.op3XNN 1 0) { State.reset with pc := 0x206 }) (·.pc) = some 0x20A ∧
    after (exec (.op3XNN 1 0) { regs [(1, 4)] with pc := 0x206 }) (·.pc) = some 0x208 := by decide +kernel
/-- K13, K14. -/
theorem test_skip_differs : after (exec (.op4XNN 0 5) (regs [(0, 5)])) (·.pc) = some 0x202 ∧
    after (exec (.op4XNN 0 6) (regs [(0, 5)])) (·.pc) = some 0x204 := by decide +kernel
/-- K15, K16. -/
theorem test_skip_registers_equal : after (exec (.op5XY0 0 1) (regs [(0, 5), (1, 5)])) (·.pc) = some 0x204 ∧
    after (exec (.op5XY0 0 1) (regs [(0, 5), (1, 6)])) (·.pc) = some 0x202 := by decide +kernel
/-- K18, K20. -/
theorem test_skip_registers_differ : after (exec (.op9XY0 0 1) (regs [(0, 5), (1, 6)])) (·.pc) = some 0x204 ∧
    after (exec (.op9XY0 3 3) (regs [(3, 0x9C)])) (·.pc) = some 0x202 := by decide +kernel
/-- K22, K25. -/
theorem test_jump_offset : after (exec (.opBNNN 0xFFF) (regs [(0, 0xFF)])) (·.pc) = some 0x10FE ∧
    after (exec (.opBNNN 0x300) (regs [(0, 4), (3, 0x77)])) (·.pc) = some 0x304 := by decide +kernel

/-! ALU (section 2.2; VF starts at 1). -/

/-- The registers 0, 1 and VF after an instruction on `V[0] = a`, `V[1] = b`, `VF = 1`. -/
def alu (i : Instr) (a b : Byte) : Option (Byte × Byte × Byte) :=
  after (exec i (regs [(0, a), (1, b), (15, 1)])) fun t => (t.v[(0 : RegIx)], t.v[(1 : RegIx)], t.v[(15 : RegIx)])

theorem test_load_immediate : after (exec (.op6XNN 0xA 0x7F) State.reset) (fun t => (t.v[(10 : RegIx)], t.pc)) =
    some (0x7F, 0x202) := by decide +kernel
theorem test_add_immediate : alu (.op7XNN 1 0xFF) 0 5 = some (0, 4, 1) ∧ alu (.op7XNN 1 1) 0 0xFF = some (0, 0, 1) := by
  decide +kernel
theorem test_move : alu (.op8XY0 0 1) 0 7 = some (7, 7, 1) := by decide +kernel
theorem test_or : alu (.op8XY1 0 1) 0xF0 0x0F = some (0xFF, 0x0F, 1) := by decide +kernel
theorem test_and : alu (.op8XY2 0 1) 0xF0 0x3C = some (0x30, 0x3C, 1) := by decide +kernel
theorem test_xor : alu (.op8XY3 0 1) 0xF0 0x3C = some (0xCC, 0x3C, 1) := by decide +kernel
theorem test_add : alu (.op8XY4 0 1) 0x80 0x7F = some (0xFF, 0x7F, 0) ∧ alu (.op8XY4 0 1) 0xFF 1 = some (0, 1, 1) := by
  decide +kernel
/-- `8F14` and `80F4`: the flag wins; VF is read before it is written. -/
theorem test_add_flag_register :
    after (exec (.op8XY4 15 1) (regs [(15, 0x10), (1, 0x20)])) (·.v[(15 : RegIx)]) = some 0 ∧
    after (exec (.op8XY4 0 15) (regs [(0, 0xFF), (15, 2)])) (fun t => (t.v[(0 : RegIx)], t.v[(15 : RegIx)])) =
      some (1, 1) := by decide +kernel
theorem test_subtract : alu (.op8XY5 0 1) 3 0xA = some (0xF9, 0xA, 0) ∧ alu (.op8XY5 0 1) 7 7 = some (0, 7, 0) := by
  decide +kernel
/-- `8F15`. -/
theorem test_subtract_flag_register :
    after (exec (.op8XY5 15 1) (regs [(15, 5), (1, 9)])) (·.v[(15 : RegIx)]) = some 0 := by decide +kernel
theorem test_shift_right : alu (.op8XY6 0 1) 5 0x99 = some (2, 0x99, 1) ∧ alu (.op8XY6 0 1) 0xFE 0x99 = some (0x7F, 0x99, 0) := by
  decide +kernel
/-- `8F06`, `8F0E`. -/
theorem test_shift_flag_register :
    after (exec (.op8XY6 15 0) (regs [(15, 3)])) (·.v[(15 : RegIx)]) = some 1 ∧
    after (exec (.op8XYE 15 0) (regs [(15, 0x81)])) (·.v[(15 : RegIx)]) = some 1 := by decide +kernel
theorem test_subtract_reversed : alu (.op8XY7 0 1) 3 0xA = some (7, 0xA, 1) ∧ alu (.op8XY7 0 1) 0xA 3 = some (0xF9, 3, 0) := by
  decide +kernel
/-- `8F17`. -/
theorem test_subtract_reversed_flag_register :
    after (exec (.op8XY7 15 1) (regs [(15, 5), (1, 9)])) (·.v[(15 : RegIx)]) = some 1 := by decide +kernel
theorem test_shift_left : alu (.op8XYE 0 1) 0x81 0x99 = some (2, 0x99, 1) ∧ alu (.op8XYE 0 1) 0x7F 0x99 = some (0xFE, 0x99, 0) := by
  decide +kernel
/-- `C200` gives 0 whatever is drawn. -/
theorem test_random_masked_out : ∀ r : Byte, r &&& 0 = 0 := by decide +kernel

/-! Index register and memory (sections 2.3 to 2.5). -/

theorem test_load_index : after (exec (.opANNN 0xFFF) State.reset) (·.i) = some 0x0FFF := by decide +kernel
theorem test_add_to_index : after (exec (.opFX1E 0) { regs [(0, 1)] with i := 0x0FFF }) (·.i) = some 0x1000 ∧
    after (exec (.opFX1E 0) { regs [(0, 0xFF), (15, 1)] with i := 0xFF80 }) (fun t => (t.i, t.v[(15 : RegIx)])) =
      some (0x007F, 1) := by decide +kernel
theorem test_glyph : after (exec (.opFX29 0) (regs [(0, 0x1A)])) (·.i) = some 0x0032 ∧
    after (exec (.opFX29 0) (regs [(0, 0xFF)])) (·.i) = some 0x004B := by decide +kernel
theorem test_bcd : after (exec (.opFX33 0) { regs [(0, 0xEA)] with i := 0x300 })
    (fun t => ([0x300, 0x301, 0x302].map t.readByte, t.i)) = some ([2, 3, 4], 0x300) := by decide +kernel
theorem test_bcd_past_memory : after (step (running 0xF033 { regs [(0, 0xEA)] with i := 0xFFE }))
    (fun t => (t.faultView, [0xFFE, 0xFFF].map t.readByte, t.pc, t.opc)) =
      some ((true, 3), [0, 0], 0x200, 0xF033) := by decide +kernel
/-- `F355`, with `V[i] = 0xA0 + i`. -/
theorem test_store_registers : after (exec (.opFX55 3) { regs [(0, 0xA0), (1, 0xA1), (2, 0xA2), (3, 0xA3), (4, 0xA4)] with i := 0x300 })
    (fun t => ([0x2FF, 0x300, 0x301, 0x302, 0x303, 0x304].map t.readByte, t.i)) =
      some ([0, 0xA0, 0xA1, 0xA2, 0xA3, 0], 0x300) := by decide +kernel
/-- `FF55` with `I = 0x0FF1`. -/
theorem test_store_registers_past_memory : after (exec (.opFX55 15) { regs [(0, 0xA0)] with i := 0xFF1 })
    (fun t => (t.faultView, t.readByte 0xFF1)) = some ((true, 3), 0) := by decide +kernel
/-- The example of R145. -/
theorem test_load_registers : after (exec (.opFX65 2) { bytesAt 0x300 [2, 3, 4, 5] State.reset with i := 0x300 })
    (fun t => (t.v.toList.take 4, t.i, t.chg.toList.take 4)) =
      some ([2, 3, 4, 0], 0x300, [true, true, true, false]) := by decide +kernel
/-- `F065` with `I = 0x0FFF`; `F165` there faults. -/
theorem test_load_registers_edge :
    after (exec (.opFX65 0) { bytesAt 0xFFF [7] State.reset with i := 0xFFF }) (fun t => (t.fault, t.v[(0 : RegIx)])) = some (false, 7) ∧
    after (exec (.opFX65 1) { bytesAt 0xFFF [7] State.reset with i := 0xFFF }) (fun t => (t.faultView, t.v[(0 : RegIx)])) =
      some ((true, 3), 0) := by decide +kernel

/-! Display (section 2.6). -/

/-- The start of section 2.6. -/
def spriteState (vx vy : Byte) : State := { bytesAt 0x300 [0x81, 0xFF] (regs [(0, vx), (1, vy)]) with i := 0x300 }

/-- W1; W2 (a collision); W3 (VF is written although nothing is drawn). -/
theorem test_draw :
    after (exec (.opDXYN 0 1 2) (spriteState 0 0)) lit = some [0, 7, 64, 65, 66, 67, 68, 69, 70, 71] ∧
    after (exec (.opDXYN 0 1 2) { spriteState 0 0 with disp := (State.reset.disp.set 7 true).set 100 true })
      (fun t => (lit t, drawn t)) = some ([0, 64, 65, 66, 67, 68, 69, 70, 71, 100], 1, 0x202, some .redraw) ∧
    after (exec (.opDXYN 0 1 0) { regs [(15, 1)] with i := 0xFFFF }) drawn = some (0, 0x202, some .redraw) := by
  decide +kernel
/-- W5 (no wrap and no clip on the right); W6 (clipped at the bottom); W7; W9 (the column is VF before the step). -/
theorem test_draw_edges :
    after (exec (.opDXYN 0 1 2) (spriteState 0xFA 0)) lit = some [250, 257, 314, 315, 316, 317, 318, 319, 320, 321] ∧
    after (exec (.opDXYN 0 1 2) (spriteState 0x3E 0x1E)) lit = some [1982, 1989, 2046, 2047] ∧
    after (exec (.opDXYN 0 1 2) { regs [(15, 1)] with i := 0xFFF }) (fun t => (t.faultView, drawn t)) =
      some ((true, 3), 1, 0x200, none) ∧
    after (exec (.opDXYN 15 1 1) { bytesAt 0x300 [0xC0] (regs [(15, 3)]) with i := 0x300 }) (fun t => (lit t, drawn t)) =
      some ([3, 4], 0, 0x202, some .redraw) := by decide +kernel
/-- W10. -/
theorem test_clear : after (exec .op00E0 { regs [(15, 1)] with disp := (State.reset.disp.set 5 true).set 2047 true })
    (fun t => (lit t, drawn t)) = some ([], 1, 0x202, some .redraw) := by decide +kernel

/-! Keypad and timers (sections 2.7, 2.8). -/

/-- The reset state with some keys pressed. -/
def keys (l : List KeyIx) (s : State) : State := l.foldl (fun t k => t.setKey k true) s

/-- Y1, Y2. -/
theorem test_skip_pressed : after (exec (.opEX9E 0) (keys [10] (regs [(0, 10)]))) (·.pc) = some 0x204 ∧
    after (exec (.opEX9E 0) (regs [(0, 10)])) (·.pc) = some 0x202 := by decide +kernel
/-- Y3, Y4. -/
theorem test_skip_released : after (exec (.opEXA1 0) (regs [(0, 10)])) (·.pc) = some 0x204 ∧
    after (exec (.opEXA1 0) (keys [10] (regs [(0, 10)]))) (·.pc) = some 0x202 := by decide +kernel
/-- Y5, Y6. -/
theorem test_no_such_key :
    after (step (running 0xE09E (regs [(0, 16)]))) (fun t => (t.faultView, t.pc, t.opc)) = some ((true, 5), 0x200, 0xE09E) ∧
    after (exec (.opEXA1 0) (regs [(0, 0xFF)])) (fun t => (t.faultView, t.pc)) = some ((true, 5), 0x200) := by decide +kernel
/-- Y7. -/
theorem test_wait : after (step (running 0xF30A State.reset)) (fun t => (t.v[(3 : RegIx)], t.pc, t.opc, t.chg[(3 : RegIx)])) =
    some (0, 0x200, 0xF30A, false) := by decide +kernel
/-- Y9, Y10. -/
theorem test_wait_key : after (exec (.opFX0A 3) (keys [15, 2, 7] State.reset)) (·.v[(3 : RegIx)]) = some 2 ∧
    after (exec (.opFX0A 3) (keys [0] State.reset)) (fun t => (t.v[(3 : RegIx)], t.pc)) = some (0, 0x202) := by decide +kernel
/-- T1. -/
theorem test_read_timer : after (exec (.opFX07 1) { State.reset with dt := 0x2A }) (fun t => (t.v[(1 : RegIx)], t.dt)) =
    some (0x2A, 0x2A) := by decide +kernel
/-- T2. -/
theorem test_set_delay : after (exec (.opFX15 0) (regs [(0, 3)])) (fun t => (t.dt, t.st)) = some (3, 0) := by decide +kernel
/-- T3, T4. -/
theorem test_set_sound : after (exec (.opFX18 0) (regs [(0, 3)])) (fun t => (t.st, t.soundActive)) = some (3, true) ∧
    after (exec (.opFX18 0) { State.reset with st := 9 }) (fun t => (t.st, t.soundActive)) = some (0, false) := by decide +kernel

/-! The agents (sections 2.7 to 2.11). -/

/-- T6, T7, T9. -/
theorem test_timer_tick :
    after (act .timerTick { State.reset with run := true, dt := 1, st := 3 }) (fun t => (t.dt, t.st)) = some (0, 2) ∧
    after (act .timerTick { State.reset with dt := 5 }) (·.dt) = some 5 ∧
    after (step (faulted .timerTick)) (·.dt) = some 5 := by decide +kernel
/-- Y11, in the Stopped state. -/
theorem test_key_event :
    after (act (.keyEvent 7 true) State.reset) (fun t => (t.key.toList.take 9, t.run)) =
      some ([false, false, false, false, false, false, false, true, false], false) ∧
    after (act (.keyEvent 7 false) (keys [7] State.reset)) (·.key[(7 : KeyIx)]) = some false := by decide +kernel
/-- Section 2.9, `F0FF`. -/
theorem test_unrecognized : after (step (running 0xF0FF (regs [(0, 5)])))
    (fun t => (t.pc, t.opc, t.event, t.fault, t.snapshot.mnemonic)) =
      some (0x202, 0xF0FF, some (.illegalOp 0xF0FF 0x200), false, none) := by decide +kernel
/-- K26, at the highest instruction and past it. -/
theorem test_fetch_edge :
    after (step { State.reset with pc := 0xFFE, opc := 1 }) (fun t => (t.pc, t.opc, t.fault)) = some (0x1000, 0, false) ∧
    after (step { State.reset with pc := 0xFFF, opc := 1 }) (fun t => (t.faultView, t.pc, t.opc)) =
      some ((true, 4), 0xFFF, 1) := by decide +kernel
/-- K27: an odd `PC` fetches. -/
theorem test_fetch_odd : after (step { bytesAt 0x203 [0x61, 0x07] State.reset with pc := 0x203 })
    (fun t => (t.v[(1 : RegIx)], t.pc, t.opc)) = some (7, 0x205, 0x6107) := by decide +kernel
/-- Z1. -/
theorem test_load : after (act (.resetLoad defaultTable [0x60, 0x05, 0x61, 0x05, 0x80, 0x14, 0x00, 0xE0]) (faulted .stop))
    (fun t => ([0x000, 0x001, 0x04F, 0x050, 0x1FF, 0x200, 0x201, 0x207, 0x208].map t.readByte, t.pc, t.faultView, t.run)) =
      some ([0xF0, 0x90, 0x80, 0, 0, 0x60, 0x05, 0xE0, 0], 0x200, (false, 0), false) := by decide +kernel
/-- A table that is not the default one. -/
def otherTable : FontTable := Vector.replicate 80 0xAA

/-- R7, R231: a load with another `FONT` puts that one at 0x000 to 0x04F. -/
theorem test_load_other_font : after (act (.resetLoad otherTable [0x60]) State.reset)
    (fun t => [0x000, 0x04F, 0x050, 0x200].map t.readByte) = some [0xAA, 0xAA, 0, 0x60] := by decide +kernel
/-- Z6: an `instr_tick` while Stopped, and one while Running. -/
theorem test_instr_tick :
    after (act .instrTick (bytesAt 0x200 [0x60, 0x05] State.reset)) (fun t => (t.pc, t.opc)) = some (0x200, 0) ∧
    after (act .instrTick { bytesAt 0x200 [0x60, 0x05] State.reset with run := true }) (fun t => (t.pc, t.opc, t.v[(0 : RegIx)])) =
      some (0x202, 0x6005, 5) := by decide +kernel
/-- R37. -/
theorem test_read_registers :
    after (exec (.op6XNN 3 0) State.reset) (·.chg[(3 : RegIx)]) = some true ∧
    after (act .readRegisters { State.reset with chg := State.reset.chg.set 3 true }) (·.chg[(3 : RegIx)]) = some false := by
  decide +kernel
/-- P1 (S10): the source's example, four steps from its load. -/
theorem test_end_to_end :
    (match core.run 5 { State.reset with
        schedule := [.resetLoad defaultTable [0x60, 0x05, 0x61, 0x05, 0x80, 0x14, 0x00, 0xE0]] } with
      | .next t => some (t.v[(0 : RegIx)], t.v[(15 : RegIx)], t.pc, lit t)
      | .fault _ => none
      | .refused _ => none) = some (10, 0, 0x208, []) := by decide +kernel

/-! Witnesses: concrete instances of the hypotheses of each obligation that has some. -/

theorem witness_DecodeOfEncode : (Instr.op0NNN 0xFFF).wellFormed = true ∧ (Instr.opDXYN 15 0 15).wellFormed = true := by
  decide
theorem witness_EncodeOfDecode : decodeWord 0x8AB4 = .ok (.op8XY4 0xA 0xB) := by decide
theorem witness_OpcodeRowsDisjoint : ∃ r r' : OpcodeRow, r ∈ opcodeMap ∧ r' ∈ opcodeMap ∧ r.selects 0x00E0 = true ∧
    r'.selects 0x00E0 = true ∧ r ≠ r' :=
  ⟨⟨"00E0", 0xFFFF, 0x00E0⟩, ⟨"0NNN", 0xF000, 0x0000⟩, by decide +kernel⟩

/-- At the highest instruction address, the three turns of the instruction agent. -/
def lastSlot (sched : List Input) : State := { bytesAt 0xFFE [0x6A, 0x7F] State.reset with pc := 0xFFE, run := true, schedule := sched }

theorem witness_InstructionTurn : InstructionTurn (lastSlot []) [] ∧ InstructionTurn (lastSlot [.stepOnce, .run]) [.run] ∧
    InstructionTurn (lastSlot [.instrTick, .timerTick]) [.timerTick] :=
  ⟨.inl ⟨rfl, rfl⟩, .inr (.inl rfl), .inr (.inr ⟨rfl, rfl⟩)⟩
theorem witness_StepRunsDecoded : InstructionTurn (lastSlot []) [] ∧ (lastSlot []).fault = false ∧
    (lastSlot []).pc.toNat + 1 ≤ 4095 ∧ decodeWord (wordAt (lastSlot [])) = .ok (.op6XNN 10 0x7F) :=
  ⟨.inl ⟨rfl, rfl⟩, by decide +kernel⟩
theorem witness_UnrecognizedIsLoggedNoOp : InstructionTurn (running 0x5001 State.reset) [] ∧
    (running 0x5001 State.reset).fault = false ∧ (running 0x5001 State.reset).pc.toNat + 1 ≤ 4095 ∧
    decodeWord (wordAt (running 0x5001 State.reset)) = .error (.unrecognized 0x5001) :=
  ⟨.inl ⟨rfl, rfl⟩, by decide +kernel⟩
theorem witness_FetchPastMemoryFaults : InstructionTurn { State.reset with pc := 0xFFF } [] ∧
    State.reset.fault = false ∧ 4095 < ({ State.reset with pc := 0xFFF } : State).pc.toNat + 1 :=
  ⟨.inl ⟨rfl, rfl⟩, by decide +kernel⟩
theorem witness_CompletedFetchWritesOpc : InstructionTurn (lastSlot []) [] ∧ (lastSlot []).fault = false ∧
    (lastSlot []).pc.toNat + 1 ≤ 4095 ∧ ∃ t, step (lastSlot []) = .next t :=
  ⟨.inl ⟨rfl, rfl⟩, by decide +kernel, by decide +kernel, _, rfl⟩
theorem witness_StopHaltsActivities :
    (∃ (s : State) (rest : List Input), s.schedule = .stop :: rest ∧ s.run = true) ∧
    (∃ (s : State) (rest : List Input), s.run = false ∧ s.schedule = .instrTick :: rest) ∧
    (∃ (s : State) (rest : List Input), s.run = false ∧ s.schedule = .timerTick :: rest) :=
  ⟨⟨lastSlot [.stop], [], rfl, rfl⟩, ⟨{ State.reset with schedule := [.instrTick] }, [], rfl, rfl⟩,
    ⟨{ State.reset with schedule := [.timerTick, .run] }, [.run], rfl, rfl⟩⟩
theorem witness_FaultedCoreIsHalted : ∀ a ∈ [Input.stepOnce, .instrTick, .timerTick, .run],
    (faulted a).fault = true ∧ (faulted a).schedule = [a] := by
  intro a _; exact ⟨rfl, rfl⟩
theorem witness_FaultIsSticky : (faulted .stop).fault = true ∧ (∃ t, step (faulted .stop) = .next t) ∧
    (∀ table rom, (faulted .stop).nextInput ≠ .resetLoad table rom) ∧ (faulted .stop).nextInput ≠ .romUnreadable := by
  refine ⟨rfl, ⟨_, rfl⟩, fun table rom => ?_, ?_⟩ <;> simp [faulted, State.nextInput]
/-- The first clause also at the shortest load that fails. -/
theorem witness_FaultIsSticky_load (rom : List Byte) (h : rom.length = 3585) :
    (faulted (.resetLoad defaultTable rom)).fault = true ∧
    (∃ t, step (faulted (.resetLoad defaultTable rom)) = .next t) ∧
    ∀ table' rom', (faulted (.resetLoad defaultTable rom)).nextInput = .resetLoad table' rom' → 3584 < rom'.length := by
  refine ⟨rfl, ⟨_, (step_of_cons (a := .resetLoad defaultTable rom) (rest := []) rfl).trans rfl⟩, fun table' rom' e => ?_⟩
  cases e; omega
theorem witness_StepKeepsInv : Inv (faulted .stop) ∧ Inv (lastSlot []) ∧ (∃ t, step (faulted .stop) = .next t) ∧
    ∃ t, step (lastSlot []) = .next t :=
  ⟨by decide +kernel, by decide +kernel, ⟨_, rfl⟩, ⟨_, rfl⟩⟩
/-- Both branches of the conclusion, for a call with 16 and with 15 addresses held. -/
theorem witness_ExecMeetsWriteSets : faultOf (.op2NNN 0x300) { State.reset with sp := 16 } = some .stackOverflow ∧
    faultOf (.op2NNN 0x300) { State.reset with sp := 15 } = none := by decide +kernel
theorem witness_WritesSetChangedFlags :
    (∃ t, exec (.opFX0A 3) (keys [15] State.reset) = .next t) ∧ faultOf (.opFX0A 3) (keys [15] State.reset) = none ∧
    (keys [15] State.reset).key[(15 : KeyIx)] = true ∧ (3 : RegIx) ∈ regsWritten (.opFX0A 3) :=
  ⟨⟨_, rfl⟩, by decide +kernel⟩
theorem witness_OnlyKeypadWritesKeys : (∃ t, step (lastSlot [.timerTick]) = .next t) ∧
    (lastSlot [.timerTick]).nextInput = .timerTick := ⟨⟨_, rfl⟩, rfl⟩
/-- A tick while Running, while Stopped and while faulted. -/
theorem witness_TimerTickDecrements : (lastSlot [.timerTick]).schedule = [.timerTick] ∧ (lastSlot [.timerTick]).run = true ∧
    ({ State.reset with schedule := [.timerTick] } : State).run = false ∧ (faulted .timerTick).schedule = [.timerTick] :=
  ⟨rfl, rfl, rfl, rfl⟩
theorem witness_TimersDecayToZero : (lastSlot (List.replicate 7 .timerTick)).schedule = List.replicate 7 .timerTick ∧
    (lastSlot (List.replicate 7 .timerTick)).run = true ∧ (lastSlot (List.replicate 7 .timerTick)).fault = false :=
  ⟨rfl, rfl, rfl⟩
theorem witness_KeyEventSetsKey : (faulted (.keyEvent 15 true)).schedule = [.keyEvent 15 true] := rfl
theorem witness_RunCommandStarts : (faulted .run).schedule = [.run] ∧ (lastSlot [.run]).schedule = [.run] := ⟨rfl, rfl⟩
theorem witness_RegisterReadClearsChanged : (lastSlot [.readRegisters]).schedule = [.readRegisters] := rfl
/-- Z3. -/
theorem witness_LoadPlacesRom : (faulted (.resetLoad defaultTable (List.replicate 3584 1))).schedule = [.resetLoad defaultTable (List.replicate 3584 1)] ∧
    (List.replicate 3584 (1 : Byte)).length ≤ 3584 := ⟨rfl, by rw [List.length_replicate]⟩
/-- Z4, and the unreadable file. -/
theorem witness_FailedLoadHaltsCore : (lastSlot [.resetLoad defaultTable (List.replicate 3585 1)]).schedule = [.resetLoad defaultTable (List.replicate 3585 1)] ∧
    3584 < (List.replicate 3585 (1 : Byte)).length ∧ (lastSlot [.romUnreadable]).schedule = [.romUnreadable] :=
  ⟨rfl, by rw [List.length_replicate]; omega, rfl⟩
theorem witness_LoadPlacesRom_short : ([1] : List Byte).length ≤ 3584 ∧ 80 ≤ 0x1FF ∧ 0x1FF < 0x200 ∧
    0x200 + ([1] : List Byte).length ≤ 0x201 := by decide
theorem witness_GlyphIsRowOfFont : ∃ s t u : State, s.schedule = [.resetLoad otherTable [1]] ∧
    ([1] : List Byte).length ≤ 3584 ∧ step s = .next t ∧ u.mem = t.mem ∧ u.v[(0 : RegIx)] = 0x1F :=
  let s : State := { State.reset with schedule := [.resetLoad otherTable [1]] }
  ⟨s, State.loaded otherTable [1] (s.begin []), { regs [(0, 0x1F)] with mem := (State.loaded otherTable [1] (s.begin [])).mem },
    rfl, by decide, (step_of_cons (a := .resetLoad otherTable [1]) (rest := []) rfl).trans
      (by rw [act, State.resetLoad, if_pos (by decide)]), rfl, by decide +kernel⟩
theorem witness_JumpGoesToTarget : (0xFFF : Addr).toNat = 0xFFF := by decide
theorem witness_OffsetJumpAddsV0 : 0xFFF ≤ (0xF00 : Addr).toNat + ((regs [(0, 0xFF)]).v[(0 : RegIx)]).toNat := by
  decide +kernel
theorem witness_RandomIsMasked : (0 : Byte) = 0 ∧ (0x0F : Byte) ≠ 0 := by decide
theorem witness_CallPushesOwnAddress : ({ State.reset with sp := 15 } : State).sp.val < 16 ∧ State.reset.sp.val < 16 := by decide
theorem witness_ReturnGoesPastCall : 0 < ({ State.reset with sp := 1 } : State).sp.val ∧
    0 < ({ State.reset with sp := 16 } : State).sp.val := by decide
theorem witness_StackLimitsFault : ({ State.reset with sp := 16 } : State).sp.val = 16 ∧ State.reset.sp.val = 0 := by decide
theorem witness_ReturnUndoesCall : ({ State.reset with sp := 15 } : State).sp.val < 16 := by decide
/-- `x = F` and `x` below F are both instances, in the three obligations on the flag family. -/
theorem witness_flag_family : (15 : RegIx) = 15 ∧ (14 : RegIx) ≠ 15 := by decide
theorem witness_BcdStoresDigits : State.reset.mem.wf = true ∧ ({ State.reset with i := 0xFFD } : State).i.toNat + 2 ≤ 4095 := by
  decide
theorem witness_StoreRegisterBlock : State.reset.mem.wf = true ∧
    ({ State.reset with i := 0xFF0 } : State).i.toNat + (15 : RegIx).val ≤ 4095 := by decide
theorem witness_LoadRegisterBlock : ({ State.reset with i := 0xFFF } : State).i.toNat + (0 : RegIx).val ≤ 4095 ∧
    (0 : RegIx) ≤ 0 ∧ (0 : RegIx) < 15 := by decide
theorem witness_MemoryBoundsFault : 4095 < ({ State.reset with i := 0xFFE } : State).i.toNat + 2 ∧
    4095 < ({ State.reset with i := 0xFF1 } : State).i.toNat + (15 : RegIx).val ∧ 0 < (1 : Nibble).toNat ∧
    4095 < ({ State.reset with i := 0x1000 } : State).i.toNat + (1 : Nibble).toNat - 1 := by decide
theorem witness_StoreLoadRoundTrip : ∃ s t u : State, s.mem.wf = true ∧ s.i.toNat + (15 : RegIx).val ≤ 4095 ∧
    exec (.opFX55 15) s = .next t ∧ u.mem = t.mem ∧ u.i = t.i ∧ u.v = Vector.replicate 16 0 :=
  let s : State := { regs [(0, 0xA0), (15, 0xAF)] with i := 0xFF0 }
  ⟨s, (s.storeRegs 15).advance, { State.reset with mem := (s.storeRegs 15).mem, i := 0xFF0 }, by decide +kernel,
    by decide +kernel, rfl, rfl, rfl, rfl⟩
theorem witness_StoreSeenByNextFetch : ∃ s : State, s.mem.wf = true ∧ s.i = s.pc + 2 ∧ s.i.toNat + 1 ≤ 4095 :=
  ⟨{ State.reset with pc := 0xFFC, i := 0xFFE }, by decide +kernel⟩
/-- No row at any `I`; fifteen rows up to the last byte. -/
theorem witness_DrawTogglesCoveredPixels :
    ¬ (0 < (0 : Nibble).toNat ∧ 4095 < ({ State.reset with i := 0xFFFF } : State).i.toNat + (0 : Nibble).toNat - 1) ∧
    ¬ (0 < (15 : Nibble).toNat ∧ 4095 < ({ State.reset with i := 0xFF1 } : State).i.toNat + (15 : Nibble).toNat - 1) := by decide
/-- Pixel 0 is covered by W1's sprite, pixel 1 is not. -/
theorem witness_Covered : Covered (spriteState 0 0) 0 0 2 0 ∧ ¬ Covered (spriteState 0 0) 0 0 1 1 := by
  refine ⟨⟨0, 0, by decide +kernel⟩, ?_⟩
  rintro ⟨row, col, hr, hc, hb, hp⟩
  obtain rfl : row = 0 := by omega
  obtain rfl : col = 1 := by simp at hp; omega
  exact absurd hb (by decide +kernel)
theorem witness_DrawTwiceRestores : (0 : RegIx) ≠ 15 ∧ (1 : RegIx) ≠ 15 ∧
    ¬ (0 < (2 : Nibble).toNat ∧ 4095 < (spriteState 0 0).i.toNat + (2 : Nibble).toNat - 1) := by decide +kernel
theorem witness_SkipOnKey : ((regs [(0, 15)]).v[(0 : RegIx)]).toNat = (15 : KeyIx).val ∧
    ((regs []).v[(0 : RegIx)]).toNat = (0 : KeyIx).val := by decide +kernel
theorem witness_NoSuchKeyFaults : 15 < ((regs [(0, 16)]).v[(0 : RegIx)]).toNat := by decide +kernel
theorem witness_WaitForKey : (keys [15] State.reset).key[(15 : KeyIx)] = true ∧
    (∀ j : KeyIx, j < 15 → (keys [15] State.reset).key[j] = false) ∧ ∀ k : KeyIx, State.reset.key[k] = false := by decide +kernel
/-- K8. -/
theorem witness_EndedProgramStays : InstructionTurn (running 0x1200 State.reset) [] ∧ ProgramEnded (running 0x1200 State.reset) :=
  ⟨.inl ⟨rfl, rfl⟩, by decide +kernel, by decide +kernel⟩

/-- A fair order: instructions and timer ticks in turn. -/
def fairSched (n : Nat) : Input := if n % 2 = 0 then .instrTick else .timerTick

/-- A running core in the endless loop `1200`, whose delay timer has counted down from 5 (S8). -/
def fairRun (n : Nat) : State :=
  { State.reset with run := true, opc := 0x1200, mem := [(0x200, 0x12)], dt := BitVec.ofNat 8 (5 - n / 2) }

theorem fairRun_instr (s : State) (hr : s.run = true) (hf : s.fault = false) (hp : s.pc = 0x200) (ho : s.opc = 0x1200)
    (hm : s.mem = [(0x200, 0x12)]) (he : s.event = none) (hs : s.schedule = []) :
    step { s with schedule := [.instrTick] } = .next s := by
  have hw : wordAt s = 0x1200 := by simp only [wordAt, State.readByte, hm, hp]; decide
  rw [step_of_turn (s := { s with schedule := [.instrTick] }) (rest := []) (.inr (.inr ⟨rfl, hr⟩)),
    instrStep_of_fetch (by exact hf) (by show s.pc.toNat + 1 ≤ 4095; rw [hp]; decide),
    execWord_of_ok (i := .op1NNN 0x200) _ (by show decodeWord (wordAt s) = _; rw [hw]; decide)]
  cases s
  simp only at hr hf hp ho hm he hs
  subst hr hf hp ho hm he hs
  exact congrArg (fun w => Host.Outcome.next (State.latch w _)) hw

theorem fairRun_follows : Follows fairSched fairRun := by
  intro n
  rcases Nat.mod_two_eq_zero_or_one n with h | h
  · have e : (n + 1) / 2 = n / 2 := by omega
    have e' : fairRun (n + 1) = fairRun n := by simp only [fairRun, e]
    rw [e', show fairSched n = .instrTick by simp [fairSched, h]]
    exact fairRun_instr (fairRun n) rfl rfl rfl rfl rfl rfl rfl
  · have e : 5 - (n + 1) / 2 = 5 - n / 2 - 1 := by omega
    have hd : decToZero (BitVec.ofNat 8 (5 - n / 2)) = BitVec.ofNat 8 (5 - n / 2 - 1) := by
      generalize hk : 5 - n / 2 = k
      have : k ≤ 5 := by omega
      interval_cases k <;> decide
    rw [step_of_cons (a := .timerTick) (rest := []) (by simp [fairSched, h])]
    simp only [fairRun, e, ← hd]
    rfl

theorem witness_FairRunEmptiesDelayTimer : Follows fairSched fairRun ∧ WeaklyFair fairSched fairRun ∧
    (∀ n, (fairRun n).run = true ∧ (fairRun n).fault = false) ∧
    (∀ n, (fairRun (n + 1)).dt.toNat ≤ (fairRun n).dt.toNat) ∧ (fairRun 0).dt = 5 := by
  refine ⟨fairRun_follows, fun _ => ⟨fun n => ⟨2 * n, by omega, ?_⟩, fun n => ⟨2 * n + 1, by omega, ?_⟩⟩,
    fun n => ⟨rfl, rfl⟩, fun n => ?_, rfl⟩
  · simp [fairSched]
  · simp [fairSched, Nat.add_mod]
  · simp only [fairRun, BitVec.toNat_ofNat]; omega

end Sys2Proof.Tests
end

section
/-! Control flow (40_control_flow.md): the skips of 3XNN and 4XNN. -/

namespace Sys2Proof.Proofs

open Sys2Proof.Machine Sys2Proof.Safety

/-- An instruction that only writes `PC` leaves `w` there and changes nothing else. -/
theorem pc_and_keeps_of_exec_eq_setPc {i : Instr} {s : State} {w : Word} (h : exec i s = .next (s.setPc w)) :
    ∃ t, exec i s = .next t ∧ t.pc = w ∧ Keeps [] [] 0 s t :=
  ⟨s.setPc w, h, s.setPc_pc w, Keeps.refl.setPc w⟩

/-- 3XNN skips on equality. -/
theorem exec_op3XNN_skips (x : RegIx) (nn : Byte) (s : State) :
    exec (.op3XNN x nn) s = .next (s.setPc (if s.v[x] = nn then s.pc + 4 else s.pc + 2)) := by
  simp only [exec_op3XNN, beq_iff_eq]

/-- 4XNN skips on inequality: the branches are 3XNN's, exchanged. -/
theorem exec_op4XNN_skips (x : RegIx) (nn : Byte) (s : State) :
    exec (.op4XNN x nn) s = .next (s.setPc (if s.v[x] = nn then s.pc + 2 else s.pc + 4)) := by
  simp only [exec_op4XNN, bne_iff_ne, ite_not, ne_eq]

/-- Settles O35: both instructions only write `PC`, with the skip or the default advance. -/
theorem skipOnImmediate : Obligations.SkipOnImmediate := by
  intro x nn s
  exact ⟨pc_and_keeps_of_exec_eq_setPc (exec_op3XNN_skips x nn s),
    pc_and_keeps_of_exec_eq_setPc (exec_op4XNN_skips x nn s)⟩

end Sys2Proof.Proofs
end

section
/-! ALU (41_alu.md): the loads, 7XNN and the logic instructions, which write one register and no flag. -/

namespace Sys2Proof.Proofs

open Sys2Proof.Machine Sys2Proof.Safety

/-- An instruction that only writes `b` to `V[x]` and advances has every effect `P` that a register `x` holding `b` has. -/
theorem result_pc_and_keeps_of_exec_eq_writeV {i : Instr} {s : State} {x : RegIx} {b : Byte} {P : State → Prop}
    (h : exec i s = .next ((s.writeV x b).setPc (s.pc + 2))) (hP : ∀ t : State, t.v[x] = b → P t) :
    ∃ t, exec i s = .next t ∧ P t ∧ t.pc = s.pc + 2 ∧ Keeps [x] [] 0 s t := by
  have hx : ((s.writeV x b).setPc (s.pc + 2)).v[x] = b := by
    simp only [State.setPc_v, State.writeV_get, if_true]
  exact ⟨_, h, hP _ hx, State.setPc_pc .., (Keeps.refl.writeV List.mem_cons_self b).setPc _⟩

/-- Settles O37: both instructions write `V[x]` alone; the sum is the one of `toNat_sumByte`. -/
theorem loadAndAddImmediate : Obligations.LoadAndAddImmediate := by
  intro x nn s
  refine ⟨result_pc_and_keeps_of_exec_eq_writeV (exec_op6XNN ..) fun t ht => ht,
    result_pc_and_keeps_of_exec_eq_writeV (exec_op7XNN ..) fun t ht => ?_⟩
  rw [ht, toNat_sumByte]

/-- Settles O38: all four instructions write `V[x]` alone; the bits are those of the word operation. -/
theorem moveAndLogic : Obligations.MoveAndLogic := by
  intro x y s
  refine ⟨result_pc_and_keeps_of_exec_eq_writeV (exec_op8XY0 ..) fun t ht => ht,
    result_pc_and_keeps_of_exec_eq_writeV (exec_op8XY1 ..) fun t ht k => ?or,
    result_pc_and_keeps_of_exec_eq_writeV (exec_op8XY2 ..) fun t ht k => ?and,
    result_pc_and_keeps_of_exec_eq_writeV (exec_op8XY3 ..) fun t ht k => ?xor⟩
  case or => rw [ht, BitVec.getLsbD_or]
  case and => rw [ht, BitVec.getLsbD_and]
  case xor => rw [ht, BitVec.getLsbD_xor]

end Sys2Proof.Proofs
end

section
/-! Index register and memory (42_index_memory.md): ANNN and FX29, which write `I` alone. -/

namespace Sys2Proof.Proofs

open Sys2Proof.Machine Sys2Proof.Safety

/-- An instruction that only writes `w` to `I` and advances leaves the value of `w` there and changes nothing else. -/
theorem index_pc_and_keeps_of_exec_eq_setI {i : Instr} {s : State} {w : Word} {k : Nat}
    (h : exec i s = .next ((s.setI w).setPc (s.pc + 2))) (hw : w.toNat = k) :
    ∃ t, exec i s = .next t ∧ t.i.toNat = k ∧ t.pc = s.pc + 2 ∧ Keeps [] [.i] 0 s t :=
  ⟨_, h, hw, State.setPc_pc .., (Keeps.refl.setI List.mem_cons_self w).setPc _⟩

/-- Settles O43: both instructions write `I` alone, with the zero-extended address or the address of the glyph. -/
theorem loadIndexAndGlyph : Obligations.LoadIndexAndGlyph :=
  ⟨fun nnn _ => index_pc_and_keeps_of_exec_eq_setI (exec_opANNN ..) (toNat_zextAddr nnn),
    fun x s => index_pc_and_keeps_of_exec_eq_setI (exec_opFX29 ..) (toNat_glyphAddr s.v[x])⟩

end Sys2Proof.Proofs
end

section
/-! Keypad and timers (44_keypad_timer.md): FX07, FX15 and FX18, and the sound output. -/

namespace Sys2Proof.Proofs

open Sys2Proof.Machine Sys2Proof.Safety

/-- The sound output is on exactly while the sound timer is above zero (R185). -/
theorem soundActive_eq_true_iff (s : State) : s.soundActive = true ↔ 0 < s.st.toNat := decide_eq_true_iff

/-- FX15 writes `DT` alone. -/
theorem exec_opFX15_sets_dt (x : RegIx) (s : State) :
    ∃ t, exec (.opFX15 x) s = .next t ∧ t.dt = s.v[x] ∧ t.pc = s.pc + 2 ∧ Keeps [] [.dt] 0 s t :=
  ⟨_, exec_opFX15 .., (State.setPc_dt ..).trans (State.setDt_dt ..), State.setPc_pc ..,
    (Keeps.refl.setDt List.mem_cons_self s.v[x]).setPc _⟩

/-- FX18 writes `ST` alone, and the sound output is that of the new `ST`. -/
theorem exec_opFX18_sets_st_and_sound (x : RegIx) (s : State) :
    ∃ t, exec (.opFX18 x) s = .next t ∧ t.st = s.v[x] ∧ (t.soundActive = true ↔ 0 < (s.v[x]).toNat) ∧
      t.pc = s.pc + 2 ∧ Keeps [] [.st] 0 s t := by
  have hst : ((s.setSt s.v[x]).setPc (s.pc + 2)).st = s.v[x] := by rw [State.setPc_st, State.setSt_st]
  have hsound : ((s.setSt s.v[x]).setPc (s.pc + 2)).soundActive = true ↔ 0 < (s.v[x]).toNat := by
    rw [soundActive_eq_true_iff, hst]
  exact ⟨_, exec_opFX18 .., hst, hsound, State.setPc_pc .., (Keeps.refl.setSt List.mem_cons_self s.v[x]).setPc _⟩

/-- Settles O57: FX07 writes `V[x]` alone, FX15 `DT` alone, and FX18 `ST` alone, which is what the sound output reads. -/
theorem timerRegisters : Obligations.TimerRegisters := by
  intro x s
  exact ⟨result_pc_and_keeps_of_exec_eq_writeV (exec_opFX07 ..) fun _ ht => ht,
    exec_opFX15_sets_dt x s, exec_opFX18_sets_st_and_sound x s⟩

end Sys2Proof.Proofs
end

section
/-! Encoding (30_encoding.md): decoding undoes encoding. -/

namespace Sys2Proof.Proofs

/-- The words of 0NNN are told apart from 00E0 and 00EE by their address field. -/
theorem encodeAddr_zero_eq_iff (nnn a : Addr) : encodeAddr 0x0#4 nnn = encodeAddr 0x0#4 a ↔ nnn = a :=
  ⟨fun h => by simpa using congrArg fieldNNN h, fun h => h ▸ rfl⟩

/-- Family 0x0 gives back a 0NNN that is not one of the two whole words (R74). -/
theorem decodeWord_encode_op0NNN {nnn : Addr} (h : (Instr.op0NNN nnn).wellFormed = true) :
    decodeWord (encode (.op0NNN nnn)) = .ok (.op0NNN nnn) := by
  simp only [Instr.wellFormed, Bool.and_eq_true, bne_iff_ne] at h
  obtain ⟨hE0, hEE⟩ := h
  have nE0 : encodeAddr 0x0#4 nnn ≠ 0x00E0#16 := mt (encodeAddr_zero_eq_iff nnn 0x0E0).1 hE0
  have nEE : encodeAddr 0x0#4 nnn ≠ 0x00EE#16 := mt (encodeAddr_zero_eq_iff nnn 0x0EE).1 hEE
  simp [encode, decodeWord, decode0, nE0, nEE]

/-- The dispatch of the decoder reads fields alone, and the fields of an encoded word are the operands. -/
theorem decodeWord_encode {i : Instr} (h : i.wellFormed = true) : decodeWord (encode i) = .ok i := by
  cases i
  case op00E0 | op00EE => rfl
  case op0NNN nnn => exact decodeWord_encode_op0NNN h
  case op8XY0 | op8XY1 | op8XY2 | op8XY3 | op8XY4 | op8XY5 | op8XY6 | op8XY7 | op8XYE =>
    simp [encode, decodeWord, decode8]
  case opEX9E | opEXA1 => simp [encode, decodeWord, decodeE]
  case opFX07 | opFX0A | opFX15 | opFX18 | opFX1E | opFX29 | opFX33 | opFX55 | opFX65 =>
    simp [encode, decodeWord, decodeF]
  all_goals simp [encode, decodeWord]

/-- Settles O1: the word decodes by its fields, and the two bytes put together are the word. -/
theorem decodeOfEncode : Obligations.DecodeOfEncode := by
  intro i rest h
  have hw := decodeWord_encode h
  refine ⟨hw, ?_⟩
  rw [encodeBytes, List.cons_append, List.cons_append, List.nil_append, decodeBytes_word, hw]
  rfl

end Sys2Proof.Proofs
end

section
/-! Encoding (30_encoding.md): what decodes is well formed and encodes to the word it came from. -/

namespace Sys2Proof.Proofs

/-- What `r` answers, if it answers an instruction, is well formed and has the word `op`. -/
def AnswersWordOf (op : Word) (r : Except Reject Instr) : Prop :=
  ∀ i, r = .ok i → encode i = op ∧ i.wellFormed = true

theorem answersWordOf_ok {op : Word} {i : Instr} (he : encode i = op) (hw : i.wellFormed = true) :
    AnswersWordOf op (.ok i) := by
  rintro _ ⟨⟩
  exact ⟨he, hw⟩

theorem answersWordOf_error (op : Word) (e : Reject) : AnswersWordOf op (.error e) := by
  rintro _ ⟨⟩

theorem answersWordOf_decode0 {op : Word} (ht : fieldT op = 0x0) : AnswersWordOf op (decode0 op) := by
  have he : encode (.op0NNN (fieldNNN op)) = op := encodeAddr_of_fields ht
  unfold decode0
  split
  · next h => exact answersWordOf_ok h.symm rfl
  · next nE0 =>
    split
    · next h => exact answersWordOf_ok h.symm rfl
    · next nEE =>
      refine answersWordOf_ok he ?_
      simp only [Instr.wellFormed, Bool.and_eq_true, bne_iff_ne]
      exact ⟨fun h => nE0 (by rw [← he, h]; rfl), fun h => nEE (by rw [← he, h]; rfl)⟩

theorem answersWordOf_decode8 {op : Word} (ht : fieldT op = 0x8) : AnswersWordOf op (decode8 op) := by
  unfold decode8
  split
  case h_10 => exact answersWordOf_error op _
  all_goals exact answersWordOf_ok (encodeXyn_of_fields ht (nibble_eq_of_toNat ‹_›)) rfl

theorem answersWordOf_decodeE {op : Word} (ht : fieldT op = 0xE) : AnswersWordOf op (decodeE op) := by
  unfold decodeE
  split
  case h_3 => exact answersWordOf_error op _
  all_goals exact answersWordOf_ok (encodeXnn_of_fields ht (byte_eq_of_toNat ‹_›)) rfl

theorem answersWordOf_decodeF {op : Word} (ht : fieldT op = 0xF) : AnswersWordOf op (decodeF op) := by
  unfold decodeF
  split
  case h_10 => exact answersWordOf_error op _
  all_goals exact answersWordOf_ok (encodeXnn_of_fields ht (byte_eq_of_toNat ‹_›)) rfl

/-- Rows 5XY0 and 9XY0: the low nibble decides (R74, decision D23). -/
theorem answersWordOf_ite_fieldN {op : Word} {i : Instr} {e : Reject} (he : fieldN op = 0 → encode i = op)
    (hw : i.wellFormed = true) : AnswersWordOf op (if fieldN op = 0 then .ok i else .error e) := by
  split
  · next h => exact answersWordOf_ok (he h) hw
  · exact answersWordOf_error op e

theorem answersWordOf_decodeWord (op : Word) : AnswersWordOf op (decodeWord op) := by
  unfold decodeWord
  split
  case h_1 ht => exact answersWordOf_decode0 (nibble_eq_of_toNat ht)
  case h_6 ht | h_10 ht => exact answersWordOf_ite_fieldN (encodeXyn_of_fields (nibble_eq_of_toNat ht)) rfl
  case h_9 ht => exact answersWordOf_decode8 (nibble_eq_of_toNat ht)
  case h_14 ht => exact answersWordOf_ok (encodeXyn_of_fields (nibble_eq_of_toNat ht) rfl) rfl
  case h_15 ht => exact answersWordOf_decodeE (nibble_eq_of_toNat ht)
  case h_16 => exact answersWordOf_decodeF (nibble_eq_of_toNat (by simp only [imp_false] at *; omega))
  case h_4 ht | h_5 ht | h_7 ht | h_8 ht | h_13 ht =>
    exact answersWordOf_ok (encodeXnn_of_fields (nibble_eq_of_toNat ht) rfl) rfl
  all_goals exact answersWordOf_ok (encodeAddr_of_fields (nibble_eq_of_toNat ‹_›)) rfl

/-- Settles O2: every branch of the decoder answers an instruction built of the fields of the word. -/
theorem encodeOfDecode : Obligations.EncodeOfDecode := answersWordOf_decodeWord

end Sys2Proof.Proofs
end

section
/-! Encoding (30_encoding.md R77): the unrecognized words, and the words of the test vectors. -/

namespace Sys2Proof.Proofs

/-- The unrecognized space of R77. -/
abbrev Unrecognized (op : Word) : Prop :=
  ((fieldT op = 0x5 ∨ fieldT op = 0x9) ∧ fieldN op ≠ 0) ∨
  (fieldT op = 0x8 ∧ fieldN op ∈ [0x8, 0x9, 0xA, 0xB, 0xC, 0xD, (0xF : Nibble)]) ∨
  (fieldT op = 0xE ∧ fieldNN op ∉ [0x9E, (0xA1 : Byte)]) ∨
  (fieldT op = 0xF ∧ fieldNN op ∉ [0x07, 0x0A, 0x15, 0x18, 0x1E, 0x29, 0x33, 0x55, (0x65 : Byte)])

/-- Either `r` answers an instruction and `P` fails, or it rejects the word `op` by name and `P` holds. -/
def RejectsExactly (op : Word) (P : Prop) (r : Except Reject Instr) : Prop :=
  (∃ i, r = .ok i ∧ ¬ P) ∨ (r = .error (.unrecognized op) ∧ P)

theorem rejectsExactly_ok {op : Word} {P : Prop} {i : Instr} (h : ¬ P) : RejectsExactly op P (.ok i) :=
  .inl ⟨i, rfl, h⟩

theorem rejectsExactly_error {op : Word} {P : Prop} (h : P) : RejectsExactly op P (.error (.unrecognized op)) :=
  .inr ⟨rfl, h⟩

theorem RejectsExactly.congr {op : Word} {P Q : Prop} {r : Except Reject Instr} (h : RejectsExactly op P r)
    (e : P ↔ Q) : RejectsExactly op Q r := propext e ▸ h

theorem RejectsExactly.iff {op : Word} {P : Prop} {r : Except Reject Instr} (h : RejectsExactly op P r) :
    (r = .error (.unrecognized op) ↔ P) ∧ ((∃ i, r = .ok i) ∨ r = .error (.unrecognized op)) := by
  rcases h with ⟨i, rfl, hP⟩ | ⟨rfl, hP⟩
  · simp [hP]
  · simp [hP]

/-! Each family by its dispatch field, compared as a number. `imp_false` turns the catch-all branch's hypotheses
`… → False` into the negations `omega` reads. -/

theorem rejectsExactly_decode0 (op : Word) : RejectsExactly op False (decode0 op) := by
  unfold decode0
  split
  · exact rejectsExactly_ok not_false
  · split <;> exact rejectsExactly_ok not_false

theorem rejectsExactly_decode8 (op : Word) :
    RejectsExactly op (fieldN op ∈ [0x8, 0x9, 0xA, 0xB, 0xC, 0xD, (0xF : Nibble)]) (decode8 op) := by
  simp only [List.mem_cons, List.not_mem_nil, or_false, BitVec.ofNat_eq_ofNat, ← BitVec.toNat_inj, BitVec.toNat_ofNat]
  unfold decode8
  split
  case h_10 => exact rejectsExactly_error (by simp only [imp_false] at *; omega)
  all_goals exact rejectsExactly_ok (by omega)

theorem rejectsExactly_decodeE (op : Word) : RejectsExactly op (fieldNN op ∉ [0x9E, (0xA1 : Byte)]) (decodeE op) := by
  simp only [List.mem_cons, List.not_mem_nil, or_false, BitVec.ofNat_eq_ofNat, ← BitVec.toNat_inj, BitVec.toNat_ofNat]
  unfold decodeE
  split
  case h_3 => exact rejectsExactly_error (by simp only [imp_false] at *; omega)
  all_goals exact rejectsExactly_ok (by omega)

theorem rejectsExactly_decodeF (op : Word) :
    RejectsExactly op (fieldNN op ∉ [0x07, 0x0A, 0x15, 0x18, 0x1E, 0x29, 0x33, 0x55, (0x65 : Byte)]) (decodeF op) := by
  simp only [List.mem_cons, List.not_mem_nil, or_false, BitVec.ofNat_eq_ofNat, ← BitVec.toNat_inj, BitVec.toNat_ofNat]
  unfold decodeF
  split
  case h_10 => exact rejectsExactly_error (by simp only [imp_false] at *; omega)
  all_goals exact rejectsExactly_ok (by omega)

theorem rejectsExactly_ite_fieldN (op : Word) (i : Instr) :
    RejectsExactly op (fieldN op ≠ 0) (if fieldN op = 0 then .ok i else .error (.unrecognized op)) := by
  split
  · next h => exact rejectsExactly_ok (not_not_intro h)
  · next h => exact rejectsExactly_error h

/-- The decoder rejects exactly the unrecognized space: each family by its own rule. -/
theorem rejectsExactly_decodeWord (op : Word) : RejectsExactly op (Unrecognized op) (decodeWord op) := by
  unfold decodeWord
  split
  case h_1 ht => exact (rejectsExactly_decode0 op).congr (by simp [Unrecognized, nibble_eq_of_toNat ht])
  case h_6 ht | h_10 ht => exact (rejectsExactly_ite_fieldN op _).congr (by simp [Unrecognized, nibble_eq_of_toNat ht])
  case h_9 ht => exact (rejectsExactly_decode8 op).congr (by simp [Unrecognized, nibble_eq_of_toNat ht])
  case h_15 ht => exact (rejectsExactly_decodeE op).congr (by simp [Unrecognized, nibble_eq_of_toNat ht])
  case h_16 =>
    have ht : fieldT op = 0xF#4 := nibble_eq_of_toNat (by simp only [imp_false] at *; omega)
    exact (rejectsExactly_decodeF op).congr (by simp [Unrecognized, ht])
  all_goals
    next ht => exact rejectsExactly_ok (by simp [Unrecognized, nibble_eq_of_toNat ht])

/-- Settles O5: the decoder rejects exactly the unrecognized space, and by the word's name. -/
theorem unrecognizedSpace : Obligations.UnrecognizedSpace := fun op => (rejectsExactly_decodeWord op).iff

/-- Settles O6, by evaluating the decoder on the eight words. -/
theorem sampleWordsDecode : Obligations.SampleWordsDecode := by
  unfold Obligations.SampleWordsDecode
  decide

end Sys2Proof.Proofs
end

section
/-! Encoding (30_encoding.md R75): the opcode map, its overlap and its agreement with the decoder. -/

namespace Sys2Proof.Proofs

theorem selects_eq_true_iff {r : OpcodeRow} {op : Word} : r.selects op = true ↔ op &&& r.mask = r.pattern :=
  beq_iff_eq

/-! Two rows. -/

/-- Two rows one word can select agree where both masks look. -/
theorem and_mask_eq_of_selects {r r' : OpcodeRow} {op : Word} (h : r.selects op = true) (h' : r'.selects op = true) :
    r.pattern &&& r'.mask = r'.pattern &&& r.mask := by
  rw [← selects_eq_true_iff.1 h, ← selects_eq_true_iff.1 h', BitVec.and_assoc, BitVec.and_assoc,
    BitVec.and_comm r.mask]

/-- A row that matches one of the two whole words of family 0x0. -/
abbrev IsWholeWordRow (r : OpcodeRow) : Prop := r.mask = 0xFFFF ∧ (r.pattern = 0x00E0 ∨ r.pattern = 0x00EE)

/-- The rows of the map that agree where both masks look: 0NNN and a whole word. -/
theorem opcodeMap_overlap : ∀ r ∈ opcodeMap, ∀ r' ∈ opcodeMap, r.pattern &&& r'.mask = r'.pattern &&& r.mask →
    r ≠ r' → IsWholeWordRow r ∧ r'.mnemonic = "0NNN" ∨ IsWholeWordRow r' ∧ r.mnemonic = "0NNN" := by
  decide +kernel

/-- A whole-word row selects its word alone. -/
theorem IsWholeWordRow.eq_of_selects {r : OpcodeRow} {op : Word} (hr : IsWholeWordRow r) (h : r.selects op = true) :
    op = 0x00E0 ∨ op = 0x00EE := by
  obtain ⟨hm, hp⟩ := hr
  have hop : op = r.pattern := by
    rw [← selects_eq_true_iff.1 h, hm]
    exact BitVec.and_allOnes.symm
  rwa [hop]

/-- Settles O4: of two rows that agree where both masks look, one is 0NNN and the other a whole word. -/
theorem opcodeRowsDisjoint : Obligations.OpcodeRowsDisjoint := by
  intro op r r' hr hr' h h' ne
  rcases opcodeMap_overlap r hr r' hr' (and_mask_eq_of_selects h h') ne with ⟨hw, hn⟩ | ⟨hw, hn⟩
  · exact ⟨hw.eq_of_selects h, .inr hn⟩
  · exact ⟨hw.eq_of_selects h', .inl hn⟩

/-! The map and the decoder. -/

/-- The row of an instruction's mnemonic selects its word. -/
theorem row_of_instr : ∀ i : Instr, Laws.Row.Statement i
  | .op00E0 => Laws.Row.op00E0
  | .op00EE => Laws.Row.op00EE
  | .op0NNN nnn => Laws.Row.op0NNN nnn
  | .op1NNN nnn => Laws.Row.op1NNN nnn
  | .op2NNN nnn => Laws.Row.op2NNN nnn
  | .op3XNN x nn => Laws.Row.op3XNN x nn
  | .op4XNN x nn => Laws.Row.op4XNN x nn
  | .op5XY0 x y => Laws.Row.op5XY0 x y
  | .op6XNN x nn => Laws.Row.op6XNN x nn
  | .op7XNN x nn => Laws.Row.op7XNN x nn
  | .op8XY0 x y => Laws.Row.op8XY0 x y
  | .op8XY1 x y => Laws.Row.op8XY1 x y
  | .op8XY2 x y => Laws.Row.op8XY2 x y
  | .op8XY3 x y => Laws.Row.op8XY3 x y
  | .op8XY4 x y => Laws.Row.op8XY4 x y
  | .op8XY5 x y => Laws.Row.op8XY5 x y
  | .op8XY6 x y => Laws.Row.op8XY6 x y
  | .op8XY7 x y => Laws.Row.op8XY7 x y
  | .op8XYE x y => Laws.Row.op8XYE x y
  | .op9XY0 x y => Laws.Row.op9XY0 x y
  | .opANNN nnn => Laws.Row.opANNN nnn
  | .opBNNN nnn => Laws.Row.opBNNN nnn
  | .opCXNN x nn => Laws.Row.opCXNN x nn
  | .opDXYN x y n => Laws.Row.opDXYN x y n
  | .opEX9E x => Laws.Row.opEX9E x
  | .opEXA1 x => Laws.Row.opEXA1 x
  | .opFX07 x => Laws.Row.opFX07 x
  | .opFX0A x => Laws.Row.opFX0A x
  | .opFX15 x => Laws.Row.opFX15 x
  | .opFX18 x => Laws.Row.opFX18 x
  | .opFX1E x => Laws.Row.opFX1E x
  | .opFX29 x => Laws.Row.opFX29 x
  | .opFX33 x => Laws.Row.opFX33 x
  | .opFX55 x => Laws.Row.opFX55 x
  | .opFX65 x => Laws.Row.opFX65 x

/-- A slice that a mask covers is the slice of the pattern. -/
theorem extract_eq_of_selects {r : OpcodeRow} {op : Word} {lo len : Nat} (h : r.selects op = true)
    (hm : r.mask.extractLsb' lo len = BitVec.allOnes len) : op.extractLsb' lo len = r.pattern.extractLsb' lo len := by
  rw [← selects_eq_true_iff.1 h, BitVec.extractLsb'_and, hm, BitVec.and_allOnes]

/-- Every row fixes the fields by which its family is dispatched, at values that are recognized. -/
theorem opcodeMap_fixes_fields : ∀ r ∈ opcodeMap, ¬ Unrecognized r.pattern ∧ fieldT r.mask = 0xF ∧
    (fieldT r.pattern ∈ [0x5, 0x8, (0x9 : Nibble)] → fieldN r.mask = 0xF) ∧
    (fieldT r.pattern ∈ [0xE, (0xF : Nibble)] → fieldNN r.mask = 0xFF) := by
  decide +kernel

/-- Membership of the unrecognized space depends on the fields by which the word's family is dispatched. -/
theorem unrecognized_congr {op p : Word} (ht : fieldT op = fieldT p)
    (hn : fieldT p ∈ [0x5, 0x8, (0x9 : Nibble)] → fieldN op = fieldN p)
    (hnn : fieldT p ∈ [0xE, (0xF : Nibble)] → fieldNN op = fieldNN p) (h : Unrecognized op) : Unrecognized p := by
  rcases h with ⟨h5 | h9, h⟩ | ⟨h8, h⟩ | ⟨hE, h⟩ | ⟨hF, h⟩
  · exact .inl ⟨.inl (ht ▸ h5), hn (by simp [← ht, h5]) ▸ h⟩
  · exact .inl ⟨.inr (ht ▸ h9), hn (by simp [← ht, h9]) ▸ h⟩
  · exact .inr (.inl ⟨ht ▸ h8, hn (by simp [← ht, h8]) ▸ h⟩)
  · exact .inr (.inr (.inl ⟨ht ▸ hE, hnn (by simp [← ht, hE]) ▸ h⟩))
  · exact .inr (.inr (.inr ⟨ht ▸ hF, hnn (by simp [← ht, hF]) ▸ h⟩))

/-- A word that selects a row is recognized. -/
theorem not_unrecognized_of_selects {r : OpcodeRow} {op : Word} (hr : r ∈ opcodeMap) (h : r.selects op = true) :
    ¬ Unrecognized op := by
  obtain ⟨hp, ht, hn, hnn⟩ := opcodeMap_fixes_fields r hr
  exact fun hop => hp (unrecognized_congr (extract_eq_of_selects h ht) (fun m => extract_eq_of_selects h (hn m))
    (fun m => extract_eq_of_selects h (hnn m)) hop)

/-- An unrecognized word selects no row. -/
theorem selectedRow_of_unrecognized {op : Word} (h : Unrecognized op) : selectedRow op = none :=
  List.find?_eq_none.2 fun _ hr hs => not_unrecognized_of_selects hr hs h

/-- The selected row is one of the map, and selects the word. -/
theorem selectedRow_eq_some {op : Word} {r : OpcodeRow} (h : selectedRow op = some r) :
    r ∈ opcodeMap ∧ r.selects op = true := by
  unfold selectedRow at h
  exact ⟨List.mem_of_find?_eq_some h, by simpa only using List.find?_some h⟩

/-- A row that selects a word other than the two whole words is the first one. -/
theorem selectedRow_of_selects {op : Word} {r : OpcodeRow} (hr : r ∈ opcodeMap) (h : r.selects op = true)
    (hop : ¬ (op = 0x00E0 ∨ op = 0x00EE)) : selectedRow op = some r := by
  cases hs : selectedRow op with
  | none => exact absurd h (List.find?_eq_none.1 hs r hr)
  | some r' =>
    obtain ⟨hr', h'⟩ := selectedRow_eq_some hs
    by_contra hne
    exact hop (opcodeRowsDisjoint op r r' hr hr' h h' fun e => hne (e ▸ rfl)).1

/-- Settles O3: the word of the decoded instruction selects the row of its mnemonic, and only the two whole words select
another row; what is not decoded is unrecognized and selects none. -/
theorem decodeFollowsOpcodeMap : Obligations.DecodeFollowsOpcodeMap := by
  intro op
  by_cases hop : op = 0x00E0 ∨ op = 0x00EE
  · rcases hop with rfl | rfl <;> decide
  · rcases rejectsExactly_decodeWord op with ⟨i, hi, _⟩ | ⟨he, hu⟩
    · obtain ⟨r, hr, hm, hs⟩ := row_of_instr i
      rw [(encodeOfDecode op i hi).1] at hs
      rw [hi, selectedRow_of_selects hr hs hop, Option.map_some, hm]
    · rw [he, selectedRow_of_unrecognized hu, Option.map_none]

end Sys2Proof.Proofs
end

section
/-! Every instruction (10_state.md R24, R36; 60_exceptions.md R201): it takes its listed fault, or
moves `PC` and keeps its frame. -/

namespace Sys2Proof.Proofs

open Sys2Proof.Machine Sys2Proof.Safety

/-- What O17 asks of one instruction in one state. -/
def MeetsWriteSet (i : Instr) (s : State) : Prop :=
  ∃ t, exec i s = .next t ∧
    match faultOf i s with
    | some c => FaultTaken c s t
    | none => t.pc = pcAfter i s ∧ Keeps (regsWritten i) (partsWritten i) (bytesStored i) s t

variable {s t : State} {i : Instr}

theorem meetsWriteSet_of_fault {c : Cause} (hf : faultOf i s = some c) (e : exec i s = .next (s.raise c)) :
    MeetsWriteSet i s :=
  ⟨_, e, by rw [hf]; exact faultTaken_raise c s⟩

theorem meetsWriteSet_of_next (hf : faultOf i s = none) (e : exec i s = .next t) (hpc : t.pc = pcAfter i s)
    (hk : Keeps (regsWritten i) (partsWritten i) (bytesStored i) s t) : MeetsWriteSet i s :=
  ⟨t, e, by rw [hf]; exact ⟨hpc, hk⟩⟩

/-- An instruction that only writes `PC`. -/
theorem meetsWriteSet_of_setPc {w : Word} (hf : faultOf i s = none) (e : exec i s = .next (s.setPc w))
    (hw : w = pcAfter i s) : MeetsWriteSet i s :=
  meetsWriteSet_of_next hf e hw (Keeps.refl.setPc w)

/-- An instruction that writes one register and advances. -/
theorem meetsWriteSet_of_writeV {x : RegIx} {b : Byte} (hf : faultOf i s = none) (hw : s.pc + 2 = pcAfter i s)
    (hx : x ∈ regsWritten i) (e : exec i s = .next ((s.writeV x b).setPc (s.pc + 2))) : MeetsWriteSet i s :=
  meetsWriteSet_of_next hf e hw ((Keeps.refl.writeV hx b).setPc _)

/-- An instruction that writes a result with its flag and advances. -/
theorem meetsWriteSet_of_writeWithFlag {x : RegIx} {r : Byte} {c : Bool} (hf : faultOf i s = none)
    (hw : s.pc + 2 = pcAfter i s) (hr : regsWritten i = [x, 15])
    (e : exec i s = .next ((s.writeWithFlag x r c).setPc (s.pc + 2))) : MeetsWriteSet i s :=
  meetsWriteSet_of_next hf e hw ((Keeps.refl.writeWithFlag (by simp [hr]) (by simp [hr]) r c).setPc _)

/-! The instructions that answer by cases. -/

theorem meetsWriteSet_op00EE (s : State) : MeetsWriteSet .op00EE s := by
  cases hp : s.pop with
  | none =>
    have h0 := (State.pop_eq_none s).1 hp
    exact meetsWriteSet_of_fault (if_pos h0) (exec_op00EE_of_empty h0)
  | some r =>
    obtain ⟨w, t⟩ := r
    obtain ⟨hpos, rfl, _⟩ := State.pop_eq_some hp
    exact meetsWriteSet_of_next (if_neg (by omega)) (exec_op00EE_of_pop hp) rfl
      ((Keeps.pop List.mem_cons_self hp).setPc _)

theorem meetsWriteSet_op2NNN (nnn : Addr) (s : State) : MeetsWriteSet (.op2NNN nnn) s := by
  cases hp : s.push s.pc with
  | none =>
    have h16 := (State.push_eq_none s s.pc).1 hp
    exact meetsWriteSet_of_fault (if_pos h16) (exec_op2NNN_of_full nnn h16)
  | some t =>
    obtain ⟨hlt, _⟩ := State.push_eq_some hp
    exact meetsWriteSet_of_next (if_neg (by omega)) (exec_op2NNN_of_push nnn hp) rfl
      ((Keeps.push List.mem_cons_self (by simp) hp).setPc _)

theorem meetsWriteSet_opDXYN (x y : RegIx) (n : Nibble) (s : State) : MeetsWriteSet (.opDXYN x y n) s := by
  by_cases h : 0 < n.toNat ∧ 4095 < s.i.toNat + n.toNat - 1
  · exact meetsWriteSet_of_fault (if_pos h) (exec_opDXYN_of_outside h)
  · exact meetsWriteSet_of_next (if_neg h) (exec_opDXYN_of_inside h) rfl
      ((((Keeps.refl.setDisp List.mem_cons_self _).writeV List.mem_cons_self _).emit (by simp) _).setPc _)

theorem meetsWriteSet_opFX33 (x : RegIx) (s : State) : MeetsWriteSet (.opFX33 x) s := by
  by_cases h : 4095 < s.i.toNat + 2
  · exact meetsWriteSet_of_fault (if_pos h) (exec_opFX33_of_outside h)
  · have inside : ∀ k, k < 3 → s.ea 0 ≤ s.ea k ∧ s.ea k < s.ea 3 := fun k hk => by simp only [State.ea_eq]; omega
    exact meetsWriteSet_of_next (if_neg h) (exec_opFX33_of_inside (by omega)) rfl
      ((((Keeps.refl.writeByte (inside 0 (by omega)) _).writeByte (inside 1 (by omega)) _).writeByte
        (inside 2 (by omega)) _).setPc _)

/-- FX55's block of stores keeps the frame of its bytes. -/
theorem Keeps.storeRegs (regs : List RegIx) (parts : List Part) (x : RegIx) (s : State) :
    Keeps regs parts (x.val + 1) s (s.storeRegs x) :=
  Keeps.foldl_writeByte Keeps.refl _ _ fun k hk => by
    have hkx : k.val ≤ x.val := (mem_regsUpTo x k).1 hk
    simp only [State.ea_eq]
    omega

theorem meetsWriteSet_opFX55 (x : RegIx) (s : State) : MeetsWriteSet (.opFX55 x) s := by
  by_cases h : 4095 < s.i.toNat + x.val
  · exact meetsWriteSet_of_fault (if_pos h) (exec_opFX55_of_outside h)
  · exact meetsWriteSet_of_next (if_neg h) (exec_opFX55_of_inside (by omega)) rfl
      ((Keeps.storeRegs [] [] x s).setPc _)

/-- FX65's block of loads keeps the frame of its registers. -/
theorem Keeps.loadRegs (parts : List Part) (n : Nat) (x : RegIx) (s : State) :
    Keeps (regsUpTo x) parts n s (s.loadRegs x) :=
  Keeps.foldl_writeV Keeps.refl (fun _ hk => hk) _

theorem meetsWriteSet_opFX65 (x : RegIx) (s : State) : MeetsWriteSet (.opFX65 x) s := by
  by_cases h : 4095 < s.i.toNat + x.val
  · exact meetsWriteSet_of_fault (if_pos h) (exec_opFX65_of_outside h)
  · exact meetsWriteSet_of_next (if_neg h) (exec_opFX65_of_inside (by omega)) rfl
      ((Keeps.loadRegs [] 0 x s).setPc _)

/-- A key has a level exactly when the key of that number has it. -/
theorem exists_key_iff {P : KeyIx → Prop} {k : KeyIx} {n : Nat} (hk : k.val = n) :
    (∃ j : KeyIx, j.val = n ∧ P j) ↔ P k :=
  ⟨fun ⟨j, hj, hP⟩ => (Fin.ext (hj.trans hk.symm) : j = k) ▸ hP, fun hP => ⟨k, hk, hP⟩⟩

theorem meetsWriteSet_opEX9E (x : RegIx) (s : State) : MeetsWriteSet (.opEX9E x) s := by
  by_cases h : 15 < (s.v[x]).toNat
  · exact meetsWriteSet_of_fault (if_pos h) (exec_opEX9E_of_none h)
  · have hk : (⟨(s.v[x]).toNat, by omega⟩ : KeyIx).val = (s.v[x]).toNat := rfl
    exact meetsWriteSet_of_setPc (if_neg h) (exec_opEX9E_of_key hk)
      (if_congr (exists_key_iff (P := fun k => s.key[k] = true) hk).symm rfl rfl)

theorem meetsWriteSet_opEXA1 (x : RegIx) (s : State) : MeetsWriteSet (.opEXA1 x) s := by
  by_cases h : 15 < (s.v[x]).toNat
  · exact meetsWriteSet_of_fault (if_pos h) (exec_opEXA1_of_none h)
  · have hk : (⟨(s.v[x]).toNat, by omega⟩ : KeyIx).val = (s.v[x]).toNat := rfl
    exact meetsWriteSet_of_setPc (if_neg h) (exec_opEXA1_of_key hk)
      (if_congr (by rw [exists_key_iff (P := fun k => s.key[k] = false) hk, Bool.not_eq_true']) rfl rfl)

theorem meetsWriteSet_opFX0A (x : RegIx) (s : State) : MeetsWriteSet (.opFX0A x) s := by
  cases hk : s.lowestKey with
  | none =>
    have hup := (State.lowestKey_eq_none s).1 hk
    exact meetsWriteSet_of_next rfl (exec_opFX0A_of_none hup)
      (if_neg fun ⟨k, hd⟩ => absurd hd (by simp [hup k])).symm Keeps.refl
  | some k =>
    exact meetsWriteSet_of_writeV rfl (if_pos ⟨k, (State.lowestKey_eq_some hk).1⟩).symm List.mem_cons_self
      (exec_opFX0A_of_key hk)

/-- Every instruction, by its constructor. -/
theorem meetsWriteSet (i : Instr) (s : State) : MeetsWriteSet i s := by
  cases i with
  | op00E0 =>
    exact meetsWriteSet_of_next rfl (exec_op00E0 s) rfl
      (((Keeps.refl.setDisp List.mem_cons_self _).emit (by simp) _).setPc _)
  | op00EE => exact meetsWriteSet_op00EE s
  | op0NNN nnn => exact meetsWriteSet_of_setPc rfl (exec_op0NNN s nnn) rfl
  | op1NNN nnn => exact meetsWriteSet_of_setPc rfl (exec_op1NNN s nnn) rfl
  | op2NNN nnn => exact meetsWriteSet_op2NNN nnn s
  | op3XNN x nn => exact meetsWriteSet_of_setPc rfl (exec_op3XNN s x nn) (if_congr beq_iff_eq rfl rfl)
  | op4XNN x nn => exact meetsWriteSet_of_setPc rfl (exec_op4XNN s x nn) (if_congr bne_iff_ne rfl rfl)
  | op5XY0 x y => exact meetsWriteSet_of_setPc rfl (exec_op5XY0 s x y) (if_congr beq_iff_eq rfl rfl)
  | op6XNN x nn => exact meetsWriteSet_of_writeV rfl rfl List.mem_cons_self (exec_op6XNN s x nn)
  | op7XNN x nn => exact meetsWriteSet_of_writeV rfl rfl List.mem_cons_self (exec_op7XNN s x nn)
  | op8XY0 x y => exact meetsWriteSet_of_writeV rfl rfl List.mem_cons_self (exec_op8XY0 s x y)
  | op8XY1 x y => exact meetsWriteSet_of_writeV rfl rfl List.mem_cons_self (exec_op8XY1 s x y)
  | op8XY2 x y => exact meetsWriteSet_of_writeV rfl rfl List.mem_cons_self (exec_op8XY2 s x y)
  | op8XY3 x y => exact meetsWriteSet_of_writeV rfl rfl List.mem_cons_self (exec_op8XY3 s x y)
  | op8XY4 x y => exact meetsWriteSet_of_writeWithFlag rfl rfl rfl (exec_op8XY4 s x y)
  | op8XY5 x y => exact meetsWriteSet_of_writeWithFlag rfl rfl rfl (exec_op8XY5 s x y)
  | op8XY6 x y => exact meetsWriteSet_of_writeWithFlag rfl rfl rfl (exec_op8XY6 s x y)
  | op8XY7 x y => exact meetsWriteSet_of_writeWithFlag rfl rfl rfl (exec_op8XY7 s x y)
  | op8XYE x y => exact meetsWriteSet_of_writeWithFlag rfl rfl rfl (exec_op8XYE s x y)
  | op9XY0 x y => exact meetsWriteSet_of_setPc rfl (exec_op9XY0 s x y) (if_congr bne_iff_ne rfl rfl)
  | opANNN nnn => exact meetsWriteSet_of_next rfl (exec_opANNN s nnn) rfl ((Keeps.refl.setI List.mem_cons_self _).setPc _)
  | opBNNN nnn => exact meetsWriteSet_of_setPc rfl (exec_opBNNN s nnn) rfl
  | opCXNN x nn =>
    exact meetsWriteSet_of_next rfl (exec_opCXNN s x nn) rfl
      (((Keeps.refl.countDraw List.mem_cons_self).writeV List.mem_cons_self _).setPc _)
  | opDXYN x y n => exact meetsWriteSet_opDXYN x y n s
  | opEX9E x => exact meetsWriteSet_opEX9E x s
  | opEXA1 x => exact meetsWriteSet_opEXA1 x s
  | opFX07 x => exact meetsWriteSet_of_writeV rfl rfl List.mem_cons_self (exec_opFX07 s x)
  | opFX0A x => exact meetsWriteSet_opFX0A x s
  | opFX15 x => exact meetsWriteSet_of_next rfl (exec_opFX15 s x) rfl ((Keeps.refl.setDt List.mem_cons_self _).setPc _)
  | opFX18 x => exact meetsWriteSet_of_next rfl (exec_opFX18 s x) rfl ((Keeps.refl.setSt List.mem_cons_self _).setPc _)
  | opFX1E x => exact meetsWriteSet_of_next rfl (exec_opFX1E s x) rfl ((Keeps.refl.setI List.mem_cons_self _).setPc _)
  | opFX29 x => exact meetsWriteSet_of_next rfl (exec_opFX29 s x) rfl ((Keeps.refl.setI List.mem_cons_self _).setPc _)
  | opFX33 x => exact meetsWriteSet_opFX33 x s
  | opFX55 x => exact meetsWriteSet_opFX55 x s
  | opFX65 x => exact meetsWriteSet_opFX65 x s

/-- Settles O17: every instruction takes its listed fault, or moves `PC` and keeps its frame. -/
theorem execMeetsWriteSets : Obligations.ExecMeetsWriteSets := meetsWriteSet

/-- What `exec` can do, said once. -/
theorem exec_cases (i : Instr) (s : State) :
    (∃ c, faultOf i s = some c ∧ exec i s = .next (s.raise c)) ∨
    (faultOf i s = none ∧ ∃ t, exec i s = .next t ∧ t.pc = pcAfter i s ∧
      Keeps (regsWritten i) (partsWritten i) (bytesStored i) s t) := by
  obtain ⟨t, e, h⟩ := meetsWriteSet i s
  cases hf : faultOf i s with
  | none =>
    rw [hf] at h
    exact .inr ⟨rfl, t, e, h⟩
  | some c =>
    rw [hf] at h
    obtain rfl : t = s.raise c := h
    exact .inl ⟨c, rfl, e⟩

/-! The changed flags of the registers written (10_state.md R37). -/

/-- The changed flag of every register listed is set. -/
def ChangedSet (regs : List RegIx) (t : State) : Prop := ∀ r ∈ regs, t.chg[r] = true

theorem changedSet_nil (t : State) : ChangedSet [] t := fun _ h => absurd h List.not_mem_nil

/-- A register written, whatever else but changed flags is updated after it. -/
theorem changedSet_of_chg_eq {s t : State} {x : RegIx} {b : Byte} (h : t.chg = (s.writeV x b).chg) :
    ChangedSet [x] t := fun r hr => by
  rw [h, State.writeV_chg_get, if_pos (List.mem_singleton.1 hr)]

theorem changedSet_writeWithFlag (s : State) (x : RegIx) (b : Byte) (c : Bool) (w : Word) :
    ChangedSet [x, 15] ((s.writeWithFlag x b c).setPc w) := fun r hr => by
  rw [State.setPc_chg, State.writeWithFlag_eq, State.writeV_chg_get, State.writeV_chg_get]
  rcases List.mem_pair.1 hr with rfl | rfl
  · rw [if_pos rfl, ite_self]
  · rw [if_pos (show (15 : RegIx) = vf from rfl)]

theorem changedSet_loadRegs (x : RegIx) (s : State) (w : Word) :
    ChangedSet (regsUpTo x) ((s.loadRegs x).setPc w) := fun r hr => by
  obtain ⟨_, chg', e, h⟩ := s.loadRegs_eq x
  rw [State.setPc_chg, e]
  exact ((h r).1 ((mem_regsUpTo x r).1 hr)).2

/-- Settles O18: by the constructor, an instruction writes no register, one, one and the flag, VF alone, or a block. -/
theorem writesSetChangedFlags : Obligations.WritesSetChangedFlags := by
  intro i s t e hf hkey
  change ChangedSet (regsWritten i) t
  cases i
  case op6XNN | op7XNN | op8XY0 | op8XY1 | op8XY2 | op8XY3 | opCXNN | opFX07 =>
    cases e
    exact changedSet_of_chg_eq rfl
  case op8XY4 | op8XY5 | op8XY6 | op8XY7 | op8XYE =>
    cases e
    exact changedSet_writeWithFlag s _ _ _ _
  case opDXYN x y n =>
    have inside : ¬ (0 < n.toNat ∧ 4095 < s.i.toNat + n.toNat - 1) := fun h => by simp [faultOf, h] at hf
    cases e.symm.trans (exec_opDXYN_of_inside inside)
    exact changedSet_of_chg_eq (s := s.setDisp _) rfl
  case opFX0A x =>
    cases hk : s.lowestKey with
    | none =>
      obtain ⟨k, hd⟩ := hkey x rfl
      exact absurd hd (by simp [(State.lowestKey_eq_none s).1 hk k])
    | some k =>
      cases e.symm.trans (exec_opFX0A_of_key hk)
      exact changedSet_of_chg_eq rfl
  case opFX65 x =>
    have inside : s.i.toNat + x.val ≤ 4095 := by
      by_contra h
      simp [faultOf, show 4095 < s.i.toNat + x.val by omega] at hf
    cases e.symm.trans (exec_opFX65_of_inside inside)
    exact changedSet_loadRegs x s _
  all_goals exact changedSet_nil t

end Sys2Proof.Proofs
end

section
/-! Every step (60_exceptions.md, 10_state.md): what an instruction can leave, and what every step keeps. -/

namespace Sys2Proof.Proofs

open Sys2Proof.Machine Sys2Proof.Safety

variable {s t : State}

/-- No fault of the table of R201 is the cause "none". -/
theorem faultOf_ne_none {i : Instr} {c : Cause} (h : faultOf i s = some c) : c ≠ .none := by
  rintro rfl
  unfold faultOf at h
  split at h
  all_goals simp at h

/-- What the execution of one word can leave of `s`: a fault entry with a cause, or a frame in which memory stays
canonical. -/
def Executed (s t : State) : Prop :=
  (∃ c, c ≠ .none ∧ t = s.raise c) ∨
  ∃ regs parts n, Keeps regs parts n s t ∧ (s.mem.wf = true → t.mem.wf = true)

theorem Executed.refl (s : State) : Executed s s := .inr ⟨[], [], 0, Keeps.refl, id⟩

theorem Executed.inv (h : Executed s t) (hs : Inv s) : Inv t := by
  rcases h with ⟨c, hc, rfl⟩ | ⟨_, _, _, hk, hw⟩
  · exact Inv.raise hs hc
  · exact Inv.of_keeps hs hk (hw hs.1)

theorem Executed.opc_eq (h : Executed s t) : t.opc = s.opc := by
  rcases h with ⟨c, _, rfl⟩ | ⟨_, _, _, hk, _⟩
  · exact s.raise_opc c
  · exact hk.opc_kept

theorem Executed.key_eq (h : Executed s t) : t.key = s.key := by
  rcases h with ⟨c, _, rfl⟩ | ⟨_, _, _, hk, _⟩
  · exact s.raise_key c
  · exact hk.key_kept

theorem exec_executed (i : Instr) (s : State) : ∃ t, exec i s = .next t ∧ Executed s t := by
  rcases exec_cases i s with ⟨c, hf, e⟩ | ⟨_, t, e, _, hk⟩
  · exact ⟨_, e, .inl ⟨c, faultOf_ne_none hf, rfl⟩⟩
  · exact ⟨t, e, .inr ⟨_, _, _, hk, fun hw => exec_mem_wf hw e⟩⟩

theorem execUnrecognized_executed (op : Word) (s : State) : Executed s (execUnrecognized op s) :=
  .inr ⟨[], [.event], 0, (Keeps.refl.emit List.mem_cons_self _).setPc _, id⟩

/-- The word fetched is executed on the state with `OPC` written (R73). -/
theorem execWord_executed (op : Word) (s : State) : ∃ t, execWord op s = .next t ∧ Executed (s.latch op) t := by
  cases hd : decodeWord op with
  | ok i => rw [execWord_of_ok s hd]; exact exec_executed i _
  | error _ => rw [execWord_of_error s hd]; exact ⟨_, rfl, execUnrecognized_executed op _⟩

/-- What the instruction agent can leave of `s`: the word at `PC` executed with `OPC` written, or a fault or no change with
`OPC` as it was. -/
def Stepped (s t : State) : Prop := Executed s t ∨ Executed (s.latch (wordAt s)) t

theorem Stepped.refl (s : State) : Stepped s s := .inl (.refl s)

theorem Stepped.inv (h : Stepped s t) (hs : Inv s) : Inv t := h.elim (·.inv hs) (·.inv hs)

theorem Stepped.key_eq (h : Stepped s t) : t.key = s.key := h.elim (·.key_eq) (·.key_eq)

theorem instrStep_stepped (s : State) : ∃ t, instrStep s = .next t ∧ Stepped s t := by
  cases hf : s.fault with
  | true => exact ⟨s, instrStep_of_fault hf, .refl s⟩
  | false =>
    rcases Nat.lt_or_ge 4095 (s.pc.toNat + 1) with hp | hp
    · exact ⟨_, instrStep_of_past hf hp, .inl (.inl ⟨_, by decide, rfl⟩)⟩
    · obtain ⟨t, e, h⟩ := execWord_executed (wordAt s) s
      exact ⟨t, (instrStep_of_fetch hf hp).trans e, .inr h⟩

theorem instrTick_stepped (s : State) : ∃ t, instrTick s = .next t ∧ Stepped s t := by
  unfold instrTick
  split
  · exact instrStep_stepped s
  · exact ⟨s, rfl, .refl s⟩

theorem stepped_of_instrStep (e : instrStep s = .next t) : Stepped s t := by
  obtain ⟨u, e', h⟩ := instrStep_stepped s
  cases e.symm.trans e'
  exact h

theorem stepped_of_instrTick (e : instrTick s = .next t) : Stepped s t := by
  obtain ⟨u, e', h⟩ := instrTick_stepped s
  cases e.symm.trans e'
  exact h

/-! The step of the instruction agent, by its fetch (30_encoding.md R73). -/

/-- On its turn, with a word to fetch, the instruction agent runs that word on the state as the begin of the step left it. -/
theorem step_eq_execWord {rest : List Input} (hturn : InstructionTurn s rest) (hf : s.fault = false)
    (hp : s.pc.toNat + 1 ≤ 4095) : step s = execWord (wordAt s) (s.begin rest) :=
  (step_of_turn hturn).trans (instrStep_of_fetch (s := s.begin rest) hf hp)

/-- Settles O7: `exec` runs with `OPC` written. -/
theorem stepRunsDecoded : Obligations.StepRunsDecoded := fun _ _ _ hturn hf hp hd =>
  (step_eq_execWord hturn hf hp).trans (execWord_of_ok _ hd)

/-- Settles O8: as O7, with the logged no-op in place of a meaning. -/
theorem unrecognizedIsLoggedNoOp : Obligations.UnrecognizedIsLoggedNoOp := fun _ _ _ hturn hf hp hd =>
  (step_eq_execWord hturn hf hp).trans (execWord_of_error _ hd)

/-- Settles O9: the fetch answers nothing, and the fault entry is all that happens. -/
theorem fetchPastMemoryFaults : Obligations.FetchPastMemoryFaults := fun s rest hturn hf hp =>
  (step_of_turn hturn).trans (instrStep_of_past (s := s.begin rest) hf hp)

/-- Settles O10: a completed fetch writes `OPC`, and nothing that follows in the step does. -/
theorem completedFetchWritesOpc : Obligations.CompletedFetchWritesOpc := by
  intro s t rest hturn hf hp e
  obtain ⟨u, e', h⟩ := execWord_executed (wordAt s) (s.begin rest)
  cases e.symm.trans ((step_eq_execWord hturn hf hp).trans e')
  exact h.opc_eq

/-! The invariant, action by action. -/

theorem inv_loaded (table : FontTable) (rom : List Byte) (s : State) : Inv (s.loaded table rom) :=
  ⟨State.loaded_wf table rom s, by simp [State.loaded, State.resetWith, State.reset], fun _ => rfl⟩

theorem inv_loadFailed (s : State) : Inv s.loadFailed :=
  ⟨State.loadFailed_wf s, by simp [State.loadFailed], fun _ => rfl⟩

theorem inv_resetLoad (table : FontTable) (rom : List Byte) (s : State) : Inv (s.resetLoad table rom) := by
  rcases s.resetLoad_cases table rom with ⟨_, e⟩ | ⟨_, e⟩
  · exact e ▸ inv_loaded table rom s
  · exact e ▸ inv_loadFailed s

theorem inv_runCommand (h : Inv s) : Inv (runCommand s) := by
  obtain ⟨hmem, hcause, hstop⟩ := h
  unfold runCommand
  split
  · next hc =>
    simp only [Bool.and_eq_true, Bool.not_eq_true'] at hc
    exact ⟨hmem, hcause, fun hf => absurd hf (by simp [State.setRun, hc.1])⟩
  · exact ⟨hmem, hcause, hstop⟩

theorem inv_timerTick (h : Inv s) : Inv (timerTick s) := by
  unfold timerTick
  split <;> exact h

/-- Every action of every agent keeps the invariant. -/
theorem inv_act {a : Input} (h : Inv s) (e : act a s = .next t) : Inv t := by
  cases a with
  | resetLoad table rom => cases e; exact inv_resetLoad table rom s
  | romUnreadable => cases e; exact inv_loadFailed s
  | run => cases e; exact inv_runCommand h
  | stop =>
    obtain ⟨hmem, hcause, _⟩ := h
    cases e
    exact ⟨hmem, hcause, fun _ => rfl⟩
  | stepOnce => exact (stepped_of_instrStep e).inv h
  | instrTick => exact (stepped_of_instrTick e).inv h
  | timerTick => cases e; exact inv_timerTick h
  | keyEvent k down => cases e; exact h
  | readRegisters => cases e; exact h

/-- Settles O15: the begin of a step touches nothing the invariant reads, and every action keeps it. -/
theorem stepKeepsInv : Obligations.StepKeepsInv := fun s _ h e =>
  inv_act (s := s.begin s.schedule.tail) h ((step_eq_act s).symm.trans e)

/-- Settles O16: the memory of the reset state lists nothing, and the core is not faulted. -/
theorem resetMeetsInv : Obligations.ResetMeetsInv :=
  ⟨Memory.nil_wf, by simp [State.reset], fun _ => rfl⟩

/-! Every action answers a next state (60_exceptions.md R202). -/

theorem act_answers (a : Input) (s : State) : ∃ t, act a s = .next t := by
  cases a with
  | stepOnce => exact (instrStep_stepped s).imp fun _ => And.left
  | instrTick => exact (instrTick_stepped s).imp fun _ => And.left
  | resetLoad | romUnreadable | run | stop | timerTick | keyEvent | readRegisters => exact ⟨_, rfl⟩

/-- Settles O14: every action answers a next state. -/
theorem stepAlwaysAnswersNext : Obligations.StepAlwaysAnswersNext := fun s =>
  step_eq_act s ▸ act_answers s.nextInput (s.begin s.schedule.tail)

/-! A faulted core (60_exceptions.md R202). -/

theorem runCommand_of_fault (h : s.fault = true) : runCommand s = s := by simp [runCommand, h]

theorem timerTick_of_fault (h : s.fault = true) : timerTick s = s := by simp [timerTick, h]

theorem instrTick_of_fault (h : s.fault = true) : instrTick s = .next s := by
  unfold instrTick
  split
  · exact instrStep_of_fault h
  · rfl

/-- The four actions that act on a core that is not faulted alone. -/
theorem act_of_fault {a : Input} (h : s.fault = true)
    (ha : a = .stepOnce ∨ a = .instrTick ∨ a = .timerTick ∨ a = .run) :
    act a s = .next s := by
  rcases ha with rfl | rfl | rfl | rfl
  · exact instrStep_of_fault h
  · exact instrTick_of_fault h
  · exact congrArg Host.Outcome.next (timerTick_of_fault h)
  · exact congrArg Host.Outcome.next (runCommand_of_fault h)

/-- Settles O12: each of the four actions answers the state as the begin of the step left it. -/
theorem faultedCoreIsHalted : Obligations.FaultedCoreIsHalted := fun _ _ _ hf ha hs =>
  (step_of_cons hs).trans (act_of_fault hf ha)

/-- No action but a load touches `FAULT` or `CAUSE` of a faulted core, and a failed load leaves `FAULT = 1`. -/
theorem act_keeps_fault {a : Input} (h : s.fault = true) (e : act a s = .next t) :
    ((∀ table rom, a = .resetLoad table rom → 3584 < rom.length) → t.fault = true) ∧
    ((∀ table rom, a ≠ .resetLoad table rom) → a ≠ .romUnreadable → t.cause = s.cause) := by
  cases a with
  | resetLoad table rom =>
    cases e
    refine ⟨fun hlen => ?_, fun hne => absurd rfl (hne table rom)⟩
    rcases s.resetLoad_cases table rom with ⟨hle, _⟩ | ⟨_, e⟩
    · exact absurd (hlen table rom rfl) (by omega)
    · rw [e]; rfl
  | romUnreadable => cases e; exact ⟨fun _ => rfl, fun _ hne => absurd rfl hne⟩
  | stop | keyEvent | readRegisters => cases e; exact ⟨fun _ => h, fun _ _ => rfl⟩
  | stepOnce | instrTick | timerTick | run =>
    cases e.symm.trans (act_of_fault h (by simp))
    exact ⟨fun _ => h, fun _ _ => rfl⟩

/-- Settles O13: by the action the step takes. -/
theorem faultIsSticky : Obligations.FaultIsSticky := fun s _ hf e =>
  act_keeps_fault (s := s.begin s.schedule.tail) hf ((step_eq_act s).symm.trans e)

/-! The keys (10_state.md R29). -/

theorem timerTick_key (s : State) : (timerTick s).key = s.key := by
  unfold timerTick
  split <;> rfl

theorem runCommand_key (s : State) : (runCommand s).key = s.key := by
  unfold runCommand
  split <;> rfl

theorem act_key {a : Input} (e : act a s = .next t) (hk : ∀ k down, a ≠ .keyEvent k down)
    (hl : ∀ table rom, a ≠ .resetLoad table rom) (hu : a ≠ .romUnreadable) : t.key = s.key := by
  cases a with
  | resetLoad table rom => exact absurd rfl (hl table rom)
  | romUnreadable => exact absurd rfl hu
  | keyEvent k down => exact absurd rfl (hk k down)
  | run => cases e; exact runCommand_key s
  | timerTick => cases e; exact timerTick_key s
  | stop | readRegisters => cases e; rfl
  | stepOnce => exact (stepped_of_instrStep e).key_eq
  | instrTick => exact (stepped_of_instrTick e).key_eq

/-- Settles O19: by the action the step takes. -/
theorem onlyKeypadWritesKeys : Obligations.OnlyKeypadWritesKeys := fun s _ e =>
  act_key (s := s.begin s.schedule.tail) ((step_eq_act s).symm.trans e)

end Sys2Proof.Proofs
end

section
/-! The other agents (60_exceptions.md, 70_reset_and_hazards.md): commands, ticks, key events and loads. -/

namespace Sys2Proof.Proofs

open Sys2Proof.Machine Sys2Proof.Safety

variable {s : State}

/-! Commands and strobes. -/

theorem instrTick_of_stopped (h : s.run = false) : instrTick s = .next s := by simp [instrTick, h]

theorem timerTick_of_stopped (h : s.run = false) : timerTick s = s := by simp [timerTick, h]

/-- Settles O11: `stop` is one write of `RUN`; while Stopped both strobes answer the state as it is. -/
theorem stopHaltsActivities : Obligations.StopHaltsActivities := by
  refine ⟨fun s rest hs => step_of_cons hs, fun s a rest hr ha hs => (step_of_cons hs).trans ?_⟩
  rcases ha with rfl | rfl
  · exact instrTick_of_stopped hr
  · exact congrArg Host.Outcome.next (timerTick_of_stopped hr)

/-- `run` in one equation for both values of `FAULT`: a core that is not started keeps its `RUN`. -/
theorem runCommand_eq (s : State) : runCommand s = s.setRun (s.run || !s.fault) := by
  unfold runCommand
  split
  · next hc =>
    simp only [Bool.and_eq_true, Bool.not_eq_true'] at hc
    rw [hc.1, Bool.not_false, Bool.or_true]
  · next hc =>
    have hkept : (s.run || !s.fault) = s.run := by
      cases hr : s.run with
      | true => rfl
      | false => simpa [hr] using hc
    rw [hkept]
    rfl

/-- Settles O23: by `runCommand_eq`. -/
theorem runCommandStarts : Obligations.RunCommandStarts := fun s rest hs =>
  (step_of_cons hs).trans (congrArg Host.Outcome.next (runCommand_eq (s.begin rest)))

/-- Settles O24: the read clears the sixteen flags at once. -/
theorem registerReadClearsChanged : Obligations.RegisterReadClearsChanged := fun s rest hs =>
  ⟨readRegisters (s.begin rest), step_of_cons hs, fun r => Vector.getElem_replicate r.isLt, rfl⟩

/-- Settles O22: the event writes one key. -/
theorem keyEventSetsKey : Obligations.KeyEventSetsKey := by
  intro s k down rest hs
  refine ⟨keyEvent k down (s.begin rest), step_of_cons hs, fun j => ?_, rfl⟩
  change (s.key.set k down)[j] = _
  simp only [Fin.getElem_fin, Vector.getElem_set, Fin.ext_iff, eq_comm]

/-! The timers (R215). -/

theorem toNat_decToZero (b : Byte) : (decToZero b).toNat = b.toNat - 1 := by
  have := b.isLt
  unfold decToZero
  split
  · rw [BitVec.toNat_ofNat]; omega
  · omega

theorem timerTick_of_running (hr : s.run = true) (hf : s.fault = false) :
    timerTick s = (s.setDt (decToZero s.dt)).setSt (decToZero s.st) := by
  simp [timerTick, hr, hf]

theorem timerTick_of_not_running (h : ¬ (s.run = true ∧ s.fault = false)) : timerTick s = s := by
  simp only [Bool.not_eq_false, not_and] at h
  cases hr : s.run with
  | true => exact timerTick_of_fault (h hr)
  | false => exact timerTick_of_stopped hr

/-- Settles O20: the tick decrements both timers of a running core, and idles otherwise. -/
theorem timerTickDecrements : Obligations.TimerTickDecrements := by
  intro s rest hs
  refine ⟨timerTick (s.begin rest), step_of_cons hs, ?_⟩
  by_cases h : s.run = true ∧ s.fault = false
  · rw [timerTick_of_running (s := s.begin rest) h.1 h.2, if_pos h, if_pos h]
    exact ⟨toNat_decToZero s.dt, toNat_decToZero s.st, rfl⟩
  · rw [timerTick_of_not_running (s := s.begin rest) h, if_neg h, if_neg h]
    exact ⟨rfl, rfl, rfl⟩

/-- One tick of a running core. -/
theorem step_of_tick {rest : List Input} (hs : s.schedule = .timerTick :: rest) (hr : s.run = true)
    (hf : s.fault = false) :
    step s = .next (((s.begin rest).setDt (decToZero s.dt)).setSt (decToZero s.st)) :=
  (step_of_cons hs).trans (congrArg Host.Outcome.next (timerTick_of_running (s := s.begin rest) hr hf))

theorem core_run_succ {k : Nat} {t : State} (h : step s = .next t) : core.run (k + 1) s = core.run k t := by
  have h' : core.step s = .next t := h
  simp only [Host.Core.run, h']

/-- Settles O21, by induction on the number of ticks. -/
theorem timersDecayToZero : Obligations.TimersDecayToZero := by
  intro k
  induction k with
  | zero => exact fun s _ _ _ => ⟨s, rfl, rfl, rfl⟩
  | succ k ih =>
    intro s hs hr hf
    have hstep := step_of_tick (rest := List.replicate k .timerTick) hs hr hf
    obtain ⟨t, e, hdt, hst⟩ := ih (((s.begin _).setDt (decToZero s.dt)).setSt (decToZero s.st)) rfl hr hf
    refine ⟨t, (core_run_succ hstep).trans e, ?_, ?_⟩
    · rw [hdt, State.setSt_dt, State.setDt_dt, toNat_decToZero]; omega
    · rw [hst, State.setSt_st, toNat_decToZero]; omega

/-! Reset and load (R231, R232). -/

theorem step_of_load {table : FontTable} {rom : List Byte} {rest : List Input}
    (hs : s.schedule = .resetLoad table rom :: rest) (hlen : rom.length ≤ 3584) :
    step s = .next ((s.begin rest).loaded table rom) := by
  rcases (s.begin rest).resetLoad_cases table rom with ⟨_, e⟩ | ⟨hgt, _⟩
  · exact (step_of_cons hs).trans (congrArg Host.Outcome.next e)
  · omega

/-- Settles O25: the three address ranges of `State.loaded_readByte`, which exclude each other. -/
theorem loadPlacesRom : Obligations.LoadPlacesRom := by
  intro s table rom rest hs hlen
  refine ⟨_, step_of_load hs hlen, fun k hk => ?rom, fun a ha => ?font, fun a ha hout => ?zero, rfl⟩
  case rom =>
    rw [State.loaded_readByte table _ hlen, dif_pos (by omega)]
    simp only [show 0x200 + k - 512 = k by omega]
  case font => rw [State.loaded_readByte table _ hlen, dif_neg (by omega), dif_pos ha]
  case zero => rw [State.loaded_readByte table _ hlen, dif_neg (by omega), dif_neg (by omega)]

theorem resetLoad_of_long {table : FontTable} {rom : List Byte} (s : State) (h : 3584 < rom.length) :
    s.resetLoad table rom = s.loadFailed := by
  rcases s.resetLoad_cases table rom with ⟨hle, _⟩ | ⟨_, e⟩
  · omega
  · exact e

/-- Settles O26: both ways to fail leave the state of a failed load. -/
theorem failedLoadHaltsCore : Obligations.FailedLoadHaltsCore := by
  intro s a rest hs ha
  have e : act a (s.begin rest) = .next (s.begin rest).loadFailed := by
    rcases ha with ⟨table, rom, rfl, hlen⟩ | rfl
    · exact congrArg Host.Outcome.next (resetLoad_of_long _ hlen)
    · rfl
  exact ⟨_, (step_of_cons hs).trans e, rfl, rfl, rfl, rfl⟩

/-- Settles O27: the registers by their reset values, memory by what an unlisted address and a font table read as. -/
theorem resetValues : Obligations.ResetValues :=
  ⟨rfl, rfl, rfl, rfl, rfl, rfl, rfl, rfl, rfl,
    fun r => ⟨Vector.getElem_replicate r.isLt, Vector.getElem_replicate r.isLt⟩,
    fun k => Vector.getElem_replicate k.isLt, fun k => Vector.getElem_replicate k.isLt,
    fun p => Vector.getElem_replicate p.isLt,
    fun _ _ => rfl, fun _ ha => Memory.resetByte_of_le ha,
    fun table a ha => (Memory.get_withFont table a).trans (dif_pos ha),
    fun table a ha => (Memory.get_withFont table a).trans (dif_neg (by omega))⟩

/-- Settles O60: FX29 points `I` into the first 80 addresses, where a load left the table. -/
theorem glyphIsRowOfFont : Obligations.GlyphIsRowOfFont := by
  intro s t u table rom rest x hs hlen e hmem
  cases e.symm.trans (step_of_load hs hlen)
  refine ⟨_, exec_opFX29 u x, fun r => ?_⟩
  have hr := r.isLt
  calc u.mem.get ((glyphAddr u.v[x]).toNat + r.val)
      = ((s.begin rest).loaded table rom).readByte (5 * ((u.v[x]).toNat % 16) + r.val) := by
        rw [hmem, toNat_glyphAddr]; rfl
    _ = table[5 * ((u.v[x]).toNat % 16) + r.val] := by
        rw [State.loaded_readByte table _ hlen, dif_neg (by omega), dif_pos (by omega)]

end Sys2Proof.Proofs
end

section
/-! Whole runs (70_reset_and_hazards.md): the end of a program, and a fair run's delay timer. -/

namespace Sys2Proof.Proofs

open Sys2Proof.Machine Sys2Proof.Safety

variable {s : State}

/-- The word at `PC` is what the fetch answers. -/
theorem fetch_eq_some_wordAt {op : Word} (h : s.fetch = some op) : s.pc.toNat + 1 ≤ 4095 ∧ wordAt s = op := by
  have hp : s.pc.toNat + 1 ≤ 4095 := by
    by_contra hgt
    simp [(State.fetch_eq_none s).2 (by omega)] at h
  exact ⟨hp, Option.some.inj ((State.fetch_eq_some hp).symm.trans h)⟩

/-- An address below 4096 survives its 12-bit form. -/
theorem zextAddr_setWidth {pc : Word} (h : pc.toNat < 4096) : zextAddr (pc.setWidth 12) = pc := by
  apply BitVec.eq_of_toNat_eq
  rw [toNat_zextAddr, BitVec.toNat_setWidth]
  omega

/-- The word `0x1000 + pc` is a jump to `pc`. -/
theorem encode_jump {pc : Word} (h : pc.toNat < 4096) : encode (.op1NNN (pc.setWidth 12)) = 0x1000 + pc := by
  apply BitVec.eq_of_toNat_eq
  simp only [encode, encodeAddr, BitVec.toNat_append, BitVec.toNat_setWidth, BitVec.toNat_add]
  rw [Nat.mod_eq_of_lt h, ← Nat.shiftLeft_add_eq_or_of_lt h]
  change 4096 + pc.toNat = (4096 + pc.toNat) % 65536
  omega

/-- Settles O58: the word at `PC` decodes to a jump to `PC`. -/
theorem endedProgramStays : Obligations.EndedProgramStays := by
  rintro s rest hturn ⟨hf, hfetch⟩
  obtain ⟨hp, hw⟩ := fetch_eq_some_wordAt hfetch
  have hlt : s.pc.toNat < 4096 := by omega
  have hd : decodeWord (wordAt s) = .ok (.op1NNN (s.pc.setWidth 12)) := by
    rw [hw, ← encode_jump hlt]
    exact decodeWord_encode rfl
  rw [stepRunsDecoded s rest _ hturn hf hp hd, exec_op1NNN, zextAddr_setWidth hlt, hw]
  rfl

/-- A tick of the run takes one off `DT`. -/
theorem follows_tick {sched : Nat → Input} {σ : Nat → State} (h : Follows sched σ) {m : Nat}
    (hm : sched m = .timerTick) (hr : (σ m).run = true) (hf : (σ m).fault = false) :
    (σ (m + 1)).dt.toNat = (σ m).dt.toNat - 1 := by
  have e := step_of_tick (s := { σ m with schedule := [sched m] }) (rest := []) (by rw [hm]) hr hf
  rw [Host.Outcome.next.inj ((h m).symm.trans e), State.setSt_dt, State.setDt_dt, toNat_decToZero]

/-- Settles O59, by induction on the value of `DT`, which never rises and falls at the next tick. -/
theorem fairRunEmptiesDelayTimer : Obligations.FairRunEmptiesDelayTimer := by
  intro sched σ hfol hfair hrun hdt
  have ticks := (hfair ⟨0, fun m _ => hrun m⟩).2
  have anti : Antitone fun n => (σ n).dt.toNat := antitone_nat_of_succ_le hdt
  have reaches : ∀ d n, (σ n).dt.toNat ≤ d → ∃ m, (σ m).dt = 0 := by
    intro d
    induction d with
    | zero => exact fun n hn => ⟨n, BitVec.eq_of_toNat_eq (Nat.le_zero.1 hn)⟩
    | succ d ih =>
      intro n hn
      obtain ⟨m, hnm, hm⟩ := ticks n
      have hle : (σ m).dt.toNat ≤ (σ n).dt.toNat := anti hnm
      have htick := follows_tick hfol hm (hrun m).1 (hrun m).2
      exact ih (m + 1) (by omega)
  exact reaches _ 0 le_rfl

end Sys2Proof.Proofs
end

section
/-! Control flow (40_control_flow.md): jumps, calls, returns and the skips on registers. -/

namespace Sys2Proof.Proofs

open Sys2Proof.Machine Sys2Proof.Safety

/-- Settles O28: 0NNN only advances `PC`. -/
theorem legacyCallIsNoOp : Obligations.LegacyCallIsNoOp := fun nnn s =>
  pc_and_keeps_of_exec_eq_setPc (exec_op0NNN s nnn)

/-- From 0xFFF up there is no word to fetch (R58). -/
theorem fetch_eq_none_of_le {t : State} (h : 0xFFF ≤ t.pc.toNat) : t.fetch = none :=
  (State.fetch_eq_none t).2 (by omega)

/-- Settles O29: 1NNN only writes `PC`. -/
theorem jumpGoesToTarget : Obligations.JumpGoesToTarget := by
  intro nnn s
  obtain ⟨t, e, hpc, hk⟩ := pc_and_keeps_of_exec_eq_setPc (exec_op1NNN s nnn)
  have htarget : t.pc.toNat = nnn.toNat := by rw [hpc, toNat_zextAddr]
  exact ⟨t, e, htarget, fun h => fetch_eq_none_of_le (by omega), hk⟩

/-- A 12-bit address and a byte never wrap a 16-bit sum. -/
theorem toNat_zextAddr_add_zextByte (nnn : Addr) (b : Byte) :
    (zextAddr nnn + zextByte b).toNat = nnn.toNat + b.toNat := by
  have := nnn.isLt
  have := b.isLt
  rw [BitVec.toNat_add, toNat_zextAddr, toNat_zextByte]
  omega

/-- Settles O30: BNNN only writes `PC`. -/
theorem offsetJumpAddsV0 : Obligations.OffsetJumpAddsV0 := by
  intro nnn s
  obtain ⟨t, e, hpc, hk⟩ := pc_and_keeps_of_exec_eq_setPc (exec_opBNNN s nnn)
  have htarget : t.pc.toNat = nnn.toNat + (s.v[(0 : RegIx)]).toNat := by rw [hpc, toNat_zextAddr_add_zextByte]
  exact ⟨t, e, htarget, fun h => fetch_eq_none_of_le (by omega), hk⟩

/-- With an address held a pop answers it. -/
theorem pop_of_pos {s : State} (h : 0 < s.sp.val) :
    s.pop = some (s.stack[s.sp.val - 1]'(by omega), { s with sp := ⟨s.sp.val - 1, by omega⟩ }) :=
  dif_pos h

/-- 2NNN with room on the stack, as a push and a jump. -/
theorem exec_op2NNN_of_lt {s : State} (nnn : Addr) (h : s.sp.val < 16) :
    exec (.op2NNN nnn) s =
      .next ({ s with stack := s.stack.set s.sp.val s.pc h, sp := ⟨s.sp.val + 1, by omega⟩ }.setPc (zextAddr nnn)) :=
  exec_op2NNN_of_push nnn (dif_pos h)

/-- Settles O31: the push writes one slot and `SP`. -/
theorem callPushesOwnAddress : Obligations.CallPushesOwnAddress := by
  intro nnn s h
  refine ⟨_, exec_op2NNN_of_lt nnn h, toNat_zextAddr nnn, rfl, fun k => ?_,
    (Keeps.push List.mem_cons_self (by simp) (dif_pos h)).setPc _⟩
  change (s.stack.set s.sp.val s.pc h)[k] = _
  simp only [Fin.getElem_fin, Vector.getElem_set, eq_comm]

/-- Settles O32: the pop writes `SP` alone. -/
theorem returnGoesPastCall : Obligations.ReturnGoesPastCall := fun _ h =>
  ⟨_, exec_op00EE_of_pop (pop_of_pos h), rfl, rfl, (Keeps.pop List.mem_cons_self (pop_of_pos h)).setPc _⟩

/-- Settles O33: the push and the pop answer nothing at the limits. -/
theorem stackLimitsFault : Obligations.StackLimitsFault :=
  ⟨fun nnn s h => ⟨_, exec_op2NNN_of_full nnn h, faultTaken_raise _ s⟩,
    fun s h => ⟨_, exec_op00EE_of_empty h, faultTaken_raise _ s⟩⟩

/-- Settles O34: the pop reads the slot the push wrote. -/
theorem returnUndoesCall : Obligations.ReturnUndoesCall := by
  intro nnn s p h
  refine ⟨_, _, exec_op2NNN_of_lt nnn h, exec_op00EE_of_pop (pop_of_pos (Nat.succ_pos s.sp.val)), ?_, rfl⟩
  change (s.stack.set s.sp.val s.pc h)[s.sp.val + 1 - 1] + 2 = s.pc + 2
  simp

/-- Settles O36: both instructions only write `PC`; the branches of 9XY0 are those of 5XY0, exchanged. -/
theorem skipOnRegister : Obligations.SkipOnRegister := by
  intro x y s
  refine ⟨pc_and_keeps_of_exec_eq_setPc ?_, pc_and_keeps_of_exec_eq_setPc ?_⟩
  · simp only [exec_op5XY0, beq_iff_eq]
  · simp only [exec_op9XY0, bne_iff_ne, ite_not, ne_eq]

end Sys2Proof.Proofs
end

section
/-! ALU (41_alu.md): the flag family and the random byte. -/

namespace Sys2Proof.Proofs

open Sys2Proof.Machine Sys2Proof.Safety

/-- An instruction that writes the result `r` to `V[x]`, then the flag `c` to VF, and advances. -/
theorem result_flag_and_keeps_of_exec_eq {i : Instr} {s : State} {x : RegIx} {r : Byte} {c : Bool} {k : Nat}
    {p : Prop} [Decidable p] (h : exec i s = .next ((s.writeWithFlag x r c).setPc (s.pc + 2))) (hr : r.toNat = k)
    (hc : c = decide p) :
    ∃ t, exec i s = .next t ∧ (x ≠ 15 → (t.v[x]).toNat = k) ∧ t.v[(15 : RegIx)] = (if p then 1 else 0) ∧
      t.pc = s.pc + 2 ∧ Keeps [x, 15] [] 0 s t := by
  refine ⟨_, h, fun hx => ?result, ?flag, State.setPc_pc ..,
    (Keeps.refl.writeWithFlag List.mem_cons_self (by simp) r c).setPc _⟩
  case result => rw [State.setPc_v, State.writeWithFlag_result s hx, hr]
  case flag => rw [State.setPc_v, State.writeWithFlag_flag, hc, flagByte]; simp only [decide_eq_true_eq]

/-- Settles O39: the sum of `toNat_sumByte` and the carry. -/
theorem addWithCarryOut : Obligations.AddWithCarryOut := fun x y s =>
  result_flag_and_keeps_of_exec_eq (exec_op8XY4 s x y) (toNat_sumByte _ _) rfl

/-- Settles O40: the difference of `toNat_diffByte` and the strict comparison, in both directions. -/
theorem subtractBothWays : Obligations.SubtractBothWays := fun x y s =>
  ⟨result_flag_and_keeps_of_exec_eq (exec_op8XY5 s x y) (toNat_diffByte _ _) rfl,
    result_flag_and_keeps_of_exec_eq (exec_op8XY7 s x y) (toNat_diffByte _ _) rfl⟩

/-- Settles O41: the shifts by one and the bit shifted out. -/
theorem shiftsByOne : Obligations.ShiftsByOne := fun x y s =>
  ⟨result_flag_and_keeps_of_exec_eq (exec_op8XY6 s x y) (toNat_shrByte _) (shrOut_eq _),
    result_flag_and_keeps_of_exec_eq (exec_op8XYE s x y) (toNat_shlByte _) (shlOut_eq _)⟩

/-- Settles O42: the byte drawn, masked, whatever it is. -/
theorem randomIsMasked : Obligations.RandomIsMasked := by
  intro x nn s
  have hx : ((s.countDraw.writeV x (Config.rnd s.draws &&& nn)).setPc (s.pc + 2)).v[x] = Config.rnd s.draws &&& nn := by
    rw [State.setPc_v, State.writeV_get, if_pos rfl]
  refine ⟨_, exec_opCXNN s x nn, hx, ?outside, ?zero, rfl, rfl,
    ((Keeps.refl.countDraw List.mem_cons_self).writeV List.mem_cons_self _).setPc _⟩
  case outside => rw [hx, BitVec.and_assoc, BitVec.and_not_self]; exact BitVec.and_zero
  case zero => rintro rfl; rw [hx]; exact BitVec.and_zero

end Sys2Proof.Proofs
end

section
/-! Index register and memory (42_index_memory.md): FX1E, and the loads and stores of FX33, FX55 and FX65. -/

namespace Sys2Proof.Proofs

open Sys2Proof.Machine Sys2Proof.Safety

/-- Settles O44: FX1E writes `I` alone. -/
theorem addToIndexWraps : Obligations.AddToIndexWraps := fun x s =>
  index_pc_and_keeps_of_exec_eq_setI (exec_opFX1E s x) (by rw [BitVec.toNat_add, toNat_zextByte])

/-- FX33 with its three bytes in memory stores the digits there and changes nothing else. -/
theorem exec_opFX33_stores (x : RegIx) {s : State} (h : s.i.toNat + 2 ≤ 4095) :
    ∃ t, exec (.opFX33 x) s = .next t ∧ t.mem = ((s.mem.set (s.i.toNat + 0) (hundreds s.v[x])).set (s.i.toNat + 1)
      (tens s.v[x])).set (s.i.toNat + 2) (ones s.v[x]) ∧ t.pc = s.pc + 2 ∧ Keeps [] [] 3 s t := by
  obtain ⟨t, e, hm⟩ := meetsWriteSet (.opFX33 x) s
  rw [show faultOf (.opFX33 x) s = none from if_neg (by omega)] at hm
  cases e.symm.trans (exec_opFX33_of_inside h)
  exact ⟨_, e, rfl, hm⟩

/-- Settles O45: three stores at different addresses, each read back after the later ones. -/
theorem bcdStoresDigits : Obligations.BcdStoresDigits := by
  intro x s hw h
  obtain ⟨t, e, hmem, hpc, hk⟩ := exec_opFX33_stores x h
  have hw1 := Memory.set_wf (s.i.toNat + 0) (hundreds s.v[x]) hw
  have hw2 := Memory.set_wf (s.i.toNat + 1) (tens s.v[x]) hw1
  refine ⟨t, e, ?hundreds, ?tens, ?ones, hpc, hk⟩
  case hundreds =>
    rw [State.readByte_eq, hmem, Memory.get_set_ne _ _ (by omega), Memory.get_set_ne _ _ (by omega)]
    rw [Nat.add_zero, Memory.get_set_eq _ hw (by omega), toNat_hundreds]
  case tens =>
    rw [State.readByte_eq, hmem, Memory.get_set_ne _ _ (by omega), Memory.get_set_eq _ hw1 (by omega), toNat_tens]
  case ones => rw [State.readByte_eq, hmem, Memory.get_set_eq _ hw2 h, toNat_ones]

/-- FX55's block reads back byte by byte. -/
theorem get_storeRegs {s : State} {x k : RegIx} (hw : s.mem.wf = true) (h : s.i.toNat + x.val ≤ 4095) (hk : k ≤ x) :
    (s.storeRegs x).mem.get (s.i.toNat + k.val) = s.v[k] := by
  rw [State.storeRegs_eq]
  refine Memory.get_foldl_set_eq (regsUpTo_nodup x) (fun j => s.i.toNat + j.val) (fun j => s.v[j]) hw
    (fun i j e => Fin.ext (by omega)) (fun j hj => ?_) ((mem_regsUpTo x k).2 hk)
  have hjx : j.val ≤ x.val := (mem_regsUpTo x j).1 hj
  omega

/-- Settles O46: the block of stores, read back byte by byte. -/
theorem storeRegisterBlock : Obligations.StoreRegisterBlock := fun x s hw h =>
  ⟨_, exec_opFX55_of_inside h, fun _ hk => get_storeRegs hw h hk, rfl, (Keeps.storeRegs [] [] x s).setPc _⟩

/-- Settles O47: the block of loads, register by register. -/
theorem loadRegisterBlock : Obligations.LoadRegisterBlock := by
  intro x s h
  have hk : Keeps (regsUpTo x) [] 0 s ((s.loadRegs x).setPc (s.pc + 2)) := (Keeps.loadRegs [] 0 x s).setPc _
  refine ⟨_, exec_opFX65_of_inside h, fun k hkx => ?_, fun k hxk => hk.regs_kept k ?_, rfl, hk⟩
  · obtain ⟨v', chg', e, hv⟩ := s.loadRegs_eq x
    rw [e]
    exact ((hv k).1 hkx).1
  · rw [mem_regsUpTo]; exact not_le_of_gt hxk

/-- Settles O48: each check is on the highest address, before anything changes. -/
theorem memoryBoundsFault : Obligations.MemoryBoundsFault :=
  ⟨fun _ s h => ⟨_, exec_opFX33_of_outside h, faultTaken_raise _ s⟩,
    fun _ s h => ⟨⟨_, exec_opFX55_of_outside h, faultTaken_raise _ s⟩,
      ⟨_, exec_opFX65_of_outside h, faultTaken_raise _ s⟩⟩,
    fun _ _ _ s hn h => ⟨_, exec_opDXYN_of_outside ⟨hn, h⟩, faultTaken_raise _ s⟩⟩

/-- Settles O49: what FX65 reads is what FX55 stored, and FX55 keeps `I`. -/
theorem storeLoadRoundTrip : Obligations.StoreLoadRoundTrip := by
  intro x s t u hw h e hmem hi
  obtain ⟨t', e', hstored, _, hkeep⟩ := storeRegisterBlock x s hw h
  cases e.symm.trans e'
  have hui : u.i = s.i := hi.trans (hkeep.i_kept List.not_mem_nil)
  obtain ⟨w, ew, hloaded, _, _, hkeep'⟩ := loadRegisterBlock x u (hui ▸ h)
  refine ⟨w, ew, fun k hk => ?_, (hkeep'.i_kept List.not_mem_nil).trans hui⟩
  rw [hloaded k hk, ← hstored k hk, hui, State.readByte_eq, State.readByte_eq, hmem]

/-- A word of two bytes, as a number. -/
theorem toNat_wordOfBytes (hi lo : Byte) : (wordOfBytes hi lo).toNat = 256 * hi.toNat + lo.toNat := by
  rw [wordOfBytes, BitVec.toNat_append, ← Nat.shiftLeft_add_eq_or_of_lt lo.isLt, Nat.shiftLeft_eq]
  omega

/-- Settles O50: the two bytes stored are those at the new `PC`. -/
theorem storeSeenByNextFetch : Obligations.StoreSeenByNextFetch := by
  intro s hw hi h
  obtain ⟨t, e, hstored, hpc, _⟩ := storeRegisterBlock 1 s hw h
  have hti : t.pc = s.i := hpc.trans hi.symm
  have h0 : t.mem.get s.i.toNat = s.v[(0 : RegIx)] := hstored 0 (by decide)
  have h1 : t.mem.get (s.i.toNat + 1) = s.v[(1 : RegIx)] := hstored 1 (by decide)
  refine ⟨t, e, _, State.fetch_eq_some (by rw [hti]; exact h), ?_⟩
  rw [hti, h0, h1, toNat_wordOfBytes]

end Sys2Proof.Proofs
end

section
/-! Display (43_display.md): 00E0 and DXYN. -/

namespace Sys2Proof.Proofs

open Sys2Proof.Machine Sys2Proof.Safety

/-- Settles O51: 00E0 writes the display and raises `redraw`. -/
theorem clearDisplay : Obligations.ClearDisplay := fun s =>
  ⟨_, exec_op00E0 s, fun p => Vector.getElem_replicate p.isLt, rfl, rfl,
    ((Keeps.refl.setDisp List.mem_cons_self _).emit (by simp) _).setPc _⟩

/-- A drawn pixel is inverted when the sprite covers it. -/
theorem blit_disp (s : State) (vx vy : Byte) (n : Nat) (p : Fin 2048) :
    (Covered s vx vy n p.val → (s.blit vx vy n).disp[p] = !s.disp[p]) ∧
    (¬ Covered s vx vy n p.val → (s.blit vx vy n).disp[p] = s.disp[p]) := by
  have hp := Canvas.toggleAll_disp (s.spriteTargets_nodup vx vy n) ⟨s.disp, false⟩ p
  refine ⟨fun h => hp.trans (if_pos ?_), fun h => hp.trans (if_neg ?_)⟩
  · exact (s.mem_spriteTargets vx vy n p).2 h
  · exact mt (s.mem_spriteTargets vx vy n p).1 h

/-- A draw is a collision exactly when a covered pixel was lit. -/
theorem blit_hit (s : State) (vx vy : Byte) (n : Nat) :
    (s.blit vx vy n).hit = true ↔ ∃ p : Fin 2048, Covered s vx vy n p.val ∧ s.disp[p] = true := by
  have hh := Canvas.toggleAll_hit (s.spriteTargets_nodup vx vy n) ⟨s.disp, false⟩
  exact hh.trans ((or_iff_right Bool.false_ne_true).trans
    (exists_congr fun p => and_congr_left' (s.mem_spriteTargets vx vy n p)))

/-- What DXYN leaves: the drawn display, the collision in VF, `redraw` raised, `PC + 2`, and the rest as it was. -/
theorem exec_opDXYN_draws {x y : RegIx} {n : Nibble} {s : State}
    (h : ¬ (0 < n.toNat ∧ 4095 < s.i.toNat + n.toNat - 1)) :
    ∃ t, exec (.opDXYN x y n) s = .next t ∧ t.disp = (s.blit s.v[x] s.v[y] n.toNat).disp ∧
      t.v[(15 : RegIx)] = flagByte (s.blit s.v[x] s.v[y] n.toNat).hit ∧ t.event = some .redraw ∧ t.pc = s.pc + 2 ∧
      t.mem = s.mem ∧ Keeps [15] [.disp, .event] 0 s t :=
  ⟨_, exec_opDXYN_of_inside h, rfl, (State.writeV_get _ vf 15 _).trans (if_pos rfl), rfl, rfl, rfl,
    (((Keeps.refl.setDisp List.mem_cons_self _).writeV List.mem_cons_self _).emit (by simp) _).setPc _⟩

/-- Settles O52: the pixels by `blit_disp`, the collision by `blit_hit`. -/
theorem drawTogglesCoveredPixels : Obligations.DrawTogglesCoveredPixels := by
  intro x y n s h
  obtain ⟨t, e, hdisp, hflag, hev, hpc, _, hk⟩ := exec_opDXYN_draws (x := x) (y := y) h
  refine ⟨t, e, fun p => ?_, ?_, ?_, hev, hpc, hk⟩
  · rw [hdisp]; exact blit_disp s _ _ _ p
  · rw [hflag, flagByte_eq_one]; exact blit_hit s _ _ _
  · rw [hflag]; exact flagByte_zero_or_one _

/-- What a sprite covers depends on memory, `I` and the coordinates alone. -/
theorem covered_congr {s t : State} (hm : t.mem = s.mem) (hi : t.i = s.i) (vx vy : Byte) (n p : Nat) :
    Covered t vx vy n p ↔ Covered s vx vy n p := by
  simp only [Covered, State.readByte_eq, hm, hi]

/-- Settles O53: with the coordinates kept the second draw covers the same pixels, and inverts them back. -/
theorem drawTwiceRestores : Obligations.DrawTwiceRestores := by
  intro x y n s hx hy h
  obtain ⟨t, e, hdisp, _, _, _, hmem, hk⟩ := exec_opDXYN_draws (x := x) (y := y) h
  have hi : t.i = s.i := hk.i_kept (by simp)
  have hvx : t.v[x] = s.v[x] := (hk.regs_kept x (by simpa using hx)).1
  have hvy : t.v[y] = s.v[y] := (hk.regs_kept y (by simpa using hy)).1
  obtain ⟨u, e', hdisp', hflag', _⟩ := exec_opDXYN_draws (x := x) (y := y) (s := t) (hi.symm ▸ h)
  have cov := covered_congr hmem hi s.v[x] s.v[y] n.toNat
  rw [hvx, hvy] at hdisp' hflag'
  refine ⟨t, u, e, e', Vector.ext fun p hp => ?restored, ?flag⟩
  case restored =>
    obtain ⟨once, keep⟩ := blit_disp s s.v[x] s.v[y] n.toNat ⟨p, hp⟩
    obtain ⟨again, keep'⟩ := blit_disp t s.v[x] s.v[y] n.toNat ⟨p, hp⟩
    rw [← hdisp] at once keep
    rw [← hdisp', cov] at again keep'
    by_cases c : Covered s s.v[x] s.v[y] n.toNat p
    · exact (again c).trans (by rw [once c, Bool.not_not]; rfl)
    · exact (keep' c).trans (keep c)
  case flag =>
    rw [hflag', flagByte_eq_one, blit_hit]
    refine exists_congr fun p => ?_
    rw [cov]
    refine and_congr_right fun c => ?_
    rw [hdisp, (blit_disp s _ _ _ p).1 c, Bool.not_eq_true']

end Sys2Proof.Proofs
end

section
/-! Keypad (44_keypad_timer.md): EX9E, EXA1 and FX0A. -/

namespace Sys2Proof.Proofs

open Sys2Proof.Machine Sys2Proof.Safety

/-- Settles O54: with a key number in `V[x]` both instructions only write `PC`. -/
theorem skipOnKey : Obligations.SkipOnKey := by
  intro x k s hk
  refine ⟨pc_and_keeps_of_exec_eq_setPc (exec_opEX9E_of_key hk.symm), pc_and_keeps_of_exec_eq_setPc ?_⟩
  rw [exec_opEXA1_of_key hk.symm]
  cases s.key[k] <;> rfl

/-- Settles O55: there is no key above 15. -/
theorem noSuchKeyFaults : Obligations.NoSuchKeyFaults := fun _ s h =>
  ⟨⟨_, exec_opEX9E_of_none h, faultTaken_raise _ s⟩, ⟨_, exec_opEXA1_of_none h, faultTaken_raise _ s⟩⟩

/-- A pressed key with none pressed below it is the lowest key. -/
theorem lowestKey_of_pressed {s : State} {k : KeyIx} (hk : s.key[k] = true)
    (hbelow : ∀ j : KeyIx, j < k → s.key[j] = false) : s.lowestKey = some k := by
  cases h : s.lowestKey with
  | none => exact absurd hk (by simp [(State.lowestKey_eq_none s).1 h k])
  | some j =>
    obtain ⟨hj, hbelow'⟩ := State.lowestKey_eq_some h
    rcases lt_trichotomy j k with hlt | rfl | hlt
    · exact absurd hj (by simp [hbelow j hlt])
    · rfl
    · exact absurd hk (by simp [hbelow' k hlt])

/-- Settles O56: the lowest key is unique, and without one the state is answered as it is. -/
theorem waitForKey : Obligations.WaitForKey := by
  refine ⟨fun x k s hk hbelow => ?_, fun x s hnone => exec_opFX0A_of_none hnone⟩
  refine result_pc_and_keeps_of_exec_eq_writeV (exec_opFX0A_of_key (lowestKey_of_pressed hk hbelow)) fun t ht => ?_
  have := k.isLt
  rw [ht, BitVec.toNat_ofNat]
  omega

end Sys2Proof.Proofs
end
